-- ==== Sys2Proof/Word.lean ====
section
/-! DEFINITION. The value types of the machine: bytes, 16-bit words, the narrower instruction
fields, and the indices of registers and keys (spec/00_scope.md R9, R10: every value is unsigned). -/

namespace Sys2Proof

/-- An 8-bit value: a general register, a memory cell, a timer, the field NN. -/
abbrev Byte := BitVec 8

/-- A 16-bit value: an instruction word, the PC, the index register, a return address. -/
abbrev Word := BitVec 16

/-- The 12-bit field NNN. -/
abbrev Addr12 := BitVec 12

/-- The 4-bit field N. -/
abbrev Nibble := BitVec 4

/-- The number of a general register V0..VF, selected by a field X or Y (R21). -/
abbrev Reg := Fin 16

/-- The number of a key 0x0..0xF (R37). -/
abbrev Key := Fin 16

end Sys2Proof
end

