-- ==== Sys2Proof/Syntax.lean ====
section
/-! DEFINITION. The instructions: one constructor per row of the selection table
(spec/30_encoding.md R96, spec/opcode_table.json), in the table's order. Field names are those of
R92: `x`, `y` registers, `nn` a byte, `nnn` a 12-bit address, `n` a 4-bit count. -/

namespace Sys2Proof

/-- The 34 defined patterns and the catch-all no-op (R96). -/
inductive Instr where
  /-- 00E0 CLS (R181). -/
  | cls
  /-- 00EE RET (R121). -/
  | ret
  /-- 1NNN JP NNN (R122). -/
  | jp (nnn : Addr12)
  /-- 2NNN CALL NNN (R123). -/
  | call (nnn : Addr12)
  /-- 3XNN SE VX, NN (R125). -/
  | seImm (x : Reg) (nn : Byte)
  /-- 4XNN SNE VX, NN (R126). -/
  | sneImm (x : Reg) (nn : Byte)
  /-- 5XY0 SE VX, VY (R127). -/
  | seReg (x y : Reg)
  /-- 6XNN LD VX, NN (R141). -/
  | ldImm (x : Reg) (nn : Byte)
  /-- 7XNN ADD VX, NN (R142). -/
  | addImm (x : Reg) (nn : Byte)
  /-- 8XY0 LD VX, VY (R143). -/
  | ldReg (x y : Reg)
  /-- 8XY1 OR VX, VY (R144). -/
  | orReg (x y : Reg)
  /-- 8XY2 AND VX, VY (R145). -/
  | andReg (x y : Reg)
  /-- 8XY3 XOR VX, VY (R146). -/
  | xorReg (x y : Reg)
  /-- 8XY4 ADD VX, VY (R147). -/
  | addReg (x y : Reg)
  /-- 8XY5 SUB VX, VY (R148). -/
  | subReg (x y : Reg)
  /-- 8XY6 SHR VX (R149); `y` is in the word and ignored by the machine (R98). -/
  | shr (x y : Reg)
  /-- 8XY7 SUBN VX, VY (R150). -/
  | subnReg (x y : Reg)
  /-- 8XYE SHL VX (R151); `y` is in the word and ignored by the machine (R98). -/
  | shl (x y : Reg)
  /-- 9XY0 SNE VX, VY (R128). -/
  | sneReg (x y : Reg)
  /-- ANNN LD I, NNN (R161). -/
  | ldI (nnn : Addr12)
  /-- BNNN JP V0, NNN (R124). -/
  | jpV0 (nnn : Addr12)
  /-- CXNN RND VX, NN (R152). -/
  | rnd (x : Reg) (nn : Byte)
  /-- DXYN DRW VX, VY, N (R182). -/
  | drw (x y : Reg) (n : Nibble)
  /-- EX9E SKP VX (R191). -/
  | skp (x : Reg)
  /-- EXA1 SKNP VX (R192). -/
  | sknp (x : Reg)
  /-- FX07 LD VX, DT (R195). -/
  | ldVxDt (x : Reg)
  /-- FX0A LD VX, K (R194). -/
  | ldVxK (x : Reg)
  /-- FX15 LD DT, VX (R196). -/
  | ldDtVx (x : Reg)
  /-- FX18 LD ST, VX (R197). -/
  | ldStVx (x : Reg)
  /-- FX1E ADD I, VX (R162). -/
  | addI (x : Reg)
  /-- FX29 LD F, VX (R163). -/
  | ldF (x : Reg)
  /-- FX33 LD B, VX (R165). -/
  | ldB (x : Reg)
  /-- FX55 LD [I], VX (R166). -/
  | stRegs (x : Reg)
  /-- FX65 LD VX, [I] (R167). -/
  | ldRegs (x : Reg)
  /-- Any other word (R211). The word is kept, so that an encoder can give it back; its fields are
  ignored by the machine. -/
  | nop (op : Word)
  deriving DecidableEq, Repr

end Sys2Proof
end

