-- ==== Sys2Proof/Decode.lean ====
section
/-! DEFINITION. The decoder and the encoder, both written from spec/30_encoding.md: fields R92, the
selection table R96, whole-word match in family 0 R97, sub-dispatch R98, no illegal word R99. -/

namespace Sys2Proof

/-- F = op[15:12], the family (R92). -/
def fieldF (op : Word) : Nibble := op.extractLsb' 12 4

/-- X = op[11:8], a register number (R92). -/
def fieldX (op : Word) : Reg := (op.extractLsb' 8 4).toFin

/-- Y = op[7:4], a register number (R92). -/
def fieldY (op : Word) : Reg := (op.extractLsb' 4 4).toFin

/-- N = op[3:0] (R92). -/
def fieldN (op : Word) : Nibble := op.extractLsb' 0 4

/-- NN = op[7:0] (R92). -/
def fieldNN (op : Word) : Byte := op.extractLsb' 0 8

/-- NNN = op[11:0] (R92). -/
def fieldNNN (op : Word) : Addr12 := op.extractLsb' 0 12

/-- Family 0: the two defined words, matched whole (R97). -/
def decodeFamily0 (op : Word) : Instr :=
  if op = 0x00E0 then .cls
  else if op = 0x00EE then .ret
  else .nop op

/-- Family 8: sub-dispatch on N, any Y (R98). -/
def decodeFamily8 (op : Word) : Instr :=
  if fieldN op = 0x0 then .ldReg (fieldX op) (fieldY op)
  else if fieldN op = 0x1 then .orReg (fieldX op) (fieldY op)
  else if fieldN op = 0x2 then .andReg (fieldX op) (fieldY op)
  else if fieldN op = 0x3 then .xorReg (fieldX op) (fieldY op)
  else if fieldN op = 0x4 then .addReg (fieldX op) (fieldY op)
  else if fieldN op = 0x5 then .subReg (fieldX op) (fieldY op)
  else if fieldN op = 0x6 then .shr (fieldX op) (fieldY op)
  else if fieldN op = 0x7 then .subnReg (fieldX op) (fieldY op)
  else if fieldN op = 0xE then .shl (fieldX op) (fieldY op)
  else .nop op

/-- Family E: sub-dispatch on NN (R98). -/
def decodeFamilyE (op : Word) : Instr :=
  if fieldNN op = 0x9E then .skp (fieldX op)
  else if fieldNN op = 0xA1 then .sknp (fieldX op)
  else .nop op

/-- Family F: sub-dispatch on NN (R98). -/
def decodeFamilyF (op : Word) : Instr :=
  if fieldNN op = 0x07 then .ldVxDt (fieldX op)
  else if fieldNN op = 0x0A then .ldVxK (fieldX op)
  else if fieldNN op = 0x15 then .ldDtVx (fieldX op)
  else if fieldNN op = 0x18 then .ldStVx (fieldX op)
  else if fieldNN op = 0x1E then .addI (fieldX op)
  else if fieldNN op = 0x29 then .ldF (fieldX op)
  else if fieldNN op = 0x33 then .ldB (fieldX op)
  else if fieldNN op = 0x55 then .stRegs (fieldX op)
  else if fieldNN op = 0x65 then .ldRegs (fieldX op)
  else .nop op

/-- Dispatch on the top 4 bits to one of 16 families (R94, R95). Total: every word decodes (R99). -/
def decodeWord (op : Word) : Instr :=
  if fieldF op = 0x0 then decodeFamily0 op
  else if fieldF op = 0x1 then .jp (fieldNNN op)
  else if fieldF op = 0x2 then .call (fieldNNN op)
  else if fieldF op = 0x3 then .seImm (fieldX op) (fieldNN op)
  else if fieldF op = 0x4 then .sneImm (fieldX op) (fieldNN op)
  else if fieldF op = 0x5 then
    if fieldN op = 0x0 then .seReg (fieldX op) (fieldY op) else .nop op
  else if fieldF op = 0x6 then .ldImm (fieldX op) (fieldNN op)
  else if fieldF op = 0x7 then .addImm (fieldX op) (fieldNN op)
  else if fieldF op = 0x8 then decodeFamily8 op
  else if fieldF op = 0x9 then
    if fieldN op = 0x0 then .sneReg (fieldX op) (fieldY op) else .nop op
  else if fieldF op = 0xA then .ldI (fieldNNN op)
  else if fieldF op = 0xB then .jpV0 (fieldNNN op)
  else if fieldF op = 0xC then .rnd (fieldX op) (fieldNN op)
  else if fieldF op = 0xD then .drw (fieldX op) (fieldY op) (fieldN op)
  else if fieldF op = 0xE then decodeFamilyE op
  else decodeFamilyF op

/-- Why bytes do not decode: the only way is that a whole word is not there (R90: one length). -/
inductive DecodeError where
  /-- Fewer than two bytes were given. -/
  | truncated
  deriving DecidableEq, Repr

/-- The word whose high byte stands at the lower address (R64, R90). -/
def wordOfBytes (hi lo : Byte) : Word := hi ++ lo

/-- The high byte of a word, which stands at the lower address (R90). -/
def wordHi (op : Word) : Byte := op.extractLsb' 8 8

/-- The low byte of a word (R90). -/
def wordLo (op : Word) : Byte := op.extractLsb' 0 8

/-- Decode the first instruction of a byte sequence and give back the rest. -/
def decode : List Byte → Except DecodeError (Instr × List Byte)
  | hi :: lo :: rest => .ok (decodeWord (wordOfBytes hi lo), rest)
  | _ => .error .truncated

/-- The word of a table entry: `nbits` bits numbered with bit 0 least significant, zeros above. -/
def tableWord (nbits w : Nat) : Word := BitVec.ofNat 16 (w % 2 ^ nbits)

/-- The instruction the decoder reads from the bytes of a table word, laid out high byte first. -/
def decodeTableWord (nbits w : Nat) : Option Instr :=
  match decode [wordHi (tableWord nbits w), wordLo (tableWord nbits w)] with
  | .ok (i, _) => some i
  | .error _ => none

/-- The word with the fields F, NNN (R91). -/
def packNNN (f : Nibble) (nnn : Addr12) : Word := f ++ nnn

/-- The word with the fields F, X, NN (R91). -/
def packXNN (f : Nibble) (x : Reg) (nn : Byte) : Word :=
  f ++ ((BitVec.ofFin x : Nibble) ++ nn : BitVec 12)

/-- The word with the fields F, X, Y, N (R91). -/
def packXYN (f : Nibble) (x y : Reg) (n : Nibble) : Word :=
  f ++ ((BitVec.ofFin x : Nibble) ++ ((BitVec.ofFin y : Nibble) ++ n : BitVec 8) : BitVec 12)

/-- The word of an instruction (R91, R96). -/
def encode : Instr → Word
  | .cls => 0x00E0
  | .ret => 0x00EE
  | .jp nnn => packNNN 0x1 nnn
  | .call nnn => packNNN 0x2 nnn
  | .seImm x nn => packXNN 0x3 x nn
  | .sneImm x nn => packXNN 0x4 x nn
  | .seReg x y => packXYN 0x5 x y 0x0
  | .ldImm x nn => packXNN 0x6 x nn
  | .addImm x nn => packXNN 0x7 x nn
  | .ldReg x y => packXYN 0x8 x y 0x0
  | .orReg x y => packXYN 0x8 x y 0x1
  | .andReg x y => packXYN 0x8 x y 0x2
  | .xorReg x y => packXYN 0x8 x y 0x3
  | .addReg x y => packXYN 0x8 x y 0x4
  | .subReg x y => packXYN 0x8 x y 0x5
  | .shr x y => packXYN 0x8 x y 0x6
  | .subnReg x y => packXYN 0x8 x y 0x7
  | .shl x y => packXYN 0x8 x y 0xE
  | .sneReg x y => packXYN 0x9 x y 0x0
  | .ldI nnn => packNNN 0xA nnn
  | .jpV0 nnn => packNNN 0xB nnn
  | .rnd x nn => packXNN 0xC x nn
  | .drw x y n => packXYN 0xD x y n
  | .skp x => packXNN 0xE x 0x9E
  | .sknp x => packXNN 0xE x 0xA1
  | .ldVxDt x => packXNN 0xF x 0x07
  | .ldVxK x => packXNN 0xF x 0x0A
  | .ldDtVx x => packXNN 0xF x 0x15
  | .ldStVx x => packXNN 0xF x 0x18
  | .addI x => packXNN 0xF x 0x1E
  | .ldF x => packXNN 0xF x 0x29
  | .ldB x => packXNN 0xF x 0x33
  | .stRegs x => packXNN 0xF x 0x55
  | .ldRegs x => packXNN 0xF x 0x65
  | .nop op => op

end Sys2Proof
end

