-- ==== Sys2Proof/Config.lean ====
section
/-! DEFINITION. The constants of the hardware (spec/00_scope.md R6, R7) and its one free value, the
random byte of CXNN (spec/41_arith_logic.md R153). The two parameters a host supplies, FONT and
INSTRUCTIONS_PER_FRAME, are the fields of `Machine.Params` (Machine/Ports.lean). -/

namespace Sys2Proof.Config

/-- MEM_SIZE, in bytes (R6, R60). -/
abbrev memSize : Nat := 4096

/-- PROGRAM_BASE, where the ROM is copied and where execution starts (R6, R262). -/
abbrev programBase : Nat := 0x200

/-- MAX_ROM_LEN = MEM_SIZE - PROGRAM_BASE (R6). -/
abbrev maxRomLen : Nat := memSize - programBase

/-- NUM_V (R6, R21). -/
abbrev numV : Nat := 16

/-- STACK_CAPACITY (R6, R30; 12 and not 16, spec/90_conflicts.md C1). -/
abbrev stackCapacity : Nat := 12

/-- DISPLAY_WIDTH (R6, R7). -/
abbrev displayWidth : Nat := 64

/-- DISPLAY_HEIGHT (R6, R7). -/
abbrev displayHeight : Nat := 32

/-- NUM_KEYS (R6, R37). -/
abbrev numKeys : Nat := 16

/-- GLYPH_SIZE, in bytes (R6). -/
abbrev glyphSize : Nat := 5

/-- FONT_BASE, the address of glyph 0 (R6, R66). -/
abbrev fontBase : Nat := 0x000

/-- The size of FONT in bytes: 16 glyphs (R6, R66). -/
abbrev fontSize : Nat := 16 * glyphSize

/-- A value of the open parameter FONT (R66): 80 bytes, glyph g at 5 g. The parameter itself is
`Machine.Params.font`, its default `Machine.defaultFont`. -/
abbrev Font := Vector Byte fontSize

/-- RANDOM_SOURCE: the byte `draw8()` supplies at the k-th execution of CXNN (R153). It has no body:
nothing is known of any draw, so what is proved holds for every draw.
DESIGN CHOICE (notes/assumptions/4.md), safe. -/
opaque randomSource : Nat → Byte

end Sys2Proof.Config
end

