-- ==== Sys2Proof/Machine/State.lean ====
section
/-! DEFINITION. The state of the Machine, as plain data (spec/10_state.md R20: the complete state is
its table and nothing else), its value after reset (spec/70_reset_and_hazards.md R262), and the
reasons a step can stop for. -/

namespace Sys2Proof.Machine

/-- RUN_STATE (R40). -/
inductive RunState where
  | running
  | paused
  | quit
  deriving DecidableEq, Repr

/-- The values of the register FAULT (R41). A fault of the spec is a STATE of the machine: entering
one is a next state (R222), never an outcome `fault` of the host's interface. -/
inductive FaultCode where
  /-- Code 0: no fault since reset. -/
  | none
  /-- Code 1: load with a length of 0 or above 3584 (R261). -/
  | romSize
  /-- Code 2: 2NNN with SP = 12 (R224). -/
  | stackOverflow
  /-- Code 3: 00EE with SP = 0 (R225). -/
  | stackUnderflow
  /-- Code 4: a fetch or a data access above address 4095 (R226, R227). -/
  | addressRange
  /-- Code 5: EX9E or EXA1 with V[X] above 15 (R228). -/
  | keyIndex
  deriving DecidableEq, Repr

/-- The framebuffer: rows of pixels, FB[y][x] (R35). -/
abbrev FrameBuffer := Vector (Vector Bool Config.displayWidth) Config.displayHeight

/-- The memory: the bytes that differ from what an unlisted address reads as, by strictly rising
address (`Memory.wf`, Machine/Ops.lean). An unlisted address reads as its reset content (R43). -/
abbrev Memory := List Host.Cell

/-- The state of the Machine (R20). -/
structure State where
  /-- V[0..15], the general registers; V[15] is the flag VF (R21 to R23). -/
  v : Vector Byte Config.numV
  /-- I, the index register (R25). -/
  i : Word
  /-- PC, the program counter (R26 to R29). -/
  pc : Word
  /-- STACK[0..11], the return addresses; slots at SP and above are stale (R30). -/
  stack : Vector Word Config.stackCapacity
  /-- SP, the next free slot, 0..12 (R31). -/
  sp : Fin (Config.stackCapacity + 1)
  /-- DT, the delay timer (R33). -/
  dt : Byte
  /-- ST, the sound timer (R33). -/
  st : Byte
  /-- FB, the framebuffer (R35). -/
  fb : FrameBuffer
  /-- DIRTY, a redraw is owed (R36). -/
  dirty : Bool
  /-- KEYS[0..15], the input latch, true = pressed (R37). -/
  keys : Vector Bool Config.numKeys
  /-- AWAITING_KEY, the last FX0A stalled (R38). -/
  awaitingKey : Bool
  /-- CAPTURED_KEY, the key an FX0A saw pressed (R38). -/
  capturedKey : Option Key
  /-- RUN_STATE (R40). -/
  runState : RunState
  /-- FAULT (R41). -/
  fault : FaultCode
  /-- MEM[0..4095] (R42, R43). -/
  mem : Memory
  /-- The model's own: how many random bytes have been drawn, so that the next draw is
  `Config.randomSource draws` (R153). DESIGN CHOICE (notes/assumptions/4.md), safe. -/
  draws : Nat
  deriving DecidableEq, Repr

/-- The state after a good `Reset` (R261, R262) with the default FONT, before any ROM byte that differs
from 0 is copied: the state a ROM of zeros leaves. The values are those of R262, which marks them as the spec's own
choice. UNVERIFIED (notes/assumptions/5.md), unsafe; see notes/assumptions/2.md for how a program
comes to run. -/
def State.reset : State where
  v := Vector.replicate Config.numV 0
  i := 0
  pc := BitVec.ofNat 16 Config.programBase
  stack := Vector.replicate Config.stackCapacity 0
  sp := 0
  dt := 0
  st := 0
  fb := Vector.replicate Config.displayHeight (Vector.replicate Config.displayWidth false)
  dirty := false
  keys := Vector.replicate Config.numKeys false
  awaitingKey := false
  capturedKey := none
  runState := .running
  fault := .none
  mem := []
  draws := 0

/-- The reasons a step can end in the host's outcome `fault`: none. Every fault of the spec has an
entry the spec describes (R222) and is a next state, so nothing raises this outcome and the type is
empty. DEDUCED (notes/assumptions/6.md), safe. -/
inductive Fault where
  deriving DecidableEq, Repr

/-- The reasons a step can be refused. -/
inductive Refusal where
  /-- Raised by an arm of `exec` whose instruction has no meaning yet. Every instruction of this model
  has one, so nothing raises it. Safe: a refused step proves nothing false. -/
  | notModelled (mnemonic : String)
  deriving DecidableEq, Repr

/-- The outcome of a step or of a meaning. -/
abbrev Result := Host.Outcome State Fault Refusal

end Sys2Proof.Machine
end

