-- ==== Sys2Proof/Machine/Ops.lean ====
section
/-! DEFINITION. The named operations over the state: one update per field, the memory
(spec/20_memory.md), fetch and fetch-ahead (spec/30_encoding.md R94), the stack
(spec/10_state.md R30, R31), the skip, and taking a fault (spec/60_exceptions.md R222). There is no
return from a fault (R233). -/

namespace Sys2Proof.Machine

/-! ### One update per field -/

/-- V[x] <- b (R21). -/
def State.setV (s : State) (x : Reg) (b : Byte) : State := { s with v := s.v.set x.val b }

/-- I <- w (R25). -/
def State.setI (s : State) (w : Word) : State := { s with i := w }

/-- PC <- w (R26). -/
def State.setPc (s : State) (w : Word) : State := { s with pc := w }

/-- STACK[k] <- w (R30). -/
def State.setStack (s : State) (k : Fin Config.stackCapacity) (w : Word) : State :=
  { s with stack := s.stack.set k.val w }

/-- SP <- n (R31). -/
def State.setSp (s : State) (n : Fin (Config.stackCapacity + 1)) : State := { s with sp := n }

/-- DT <- b (R33). -/
def State.setDt (s : State) (b : Byte) : State := { s with dt := b }

/-- ST <- b (R33). -/
def State.setSt (s : State) (b : Byte) : State := { s with st := b }

/-- The whole framebuffer is replaced (R35). -/
def State.setFb (s : State) (fb : FrameBuffer) : State := { s with fb := fb }

/-- DIRTY <- b (R36). -/
def State.setDirty (s : State) (b : Bool) : State := { s with dirty := b }

/-- KEYS is overwritten wholesale (R37, R238). -/
def State.setKeys (s : State) (k : Vector Bool Config.numKeys) : State := { s with keys := k }

/-- AWAITING_KEY <- b (R38). -/
def State.setAwaitingKey (s : State) (b : Bool) : State := { s with awaitingKey := b }

/-- CAPTURED_KEY <- k (R38). -/
def State.setCapturedKey (s : State) (k : Option Key) : State := { s with capturedKey := k }

/-- RUN_STATE <- r (R40). -/
def State.setRunState (s : State) (r : RunState) : State := { s with runState := r }

/-- FAULT <- c (R41). -/
def State.setFault (s : State) (c : FaultCode) : State := { s with fault := c }

/-- The whole memory is replaced. -/
def State.setMem (s : State) (m : Memory) : State := { s with mem := m }

/-- The model's draw counter (R153). -/
def State.setDraws (s : State) (n : Nat) : State := { s with draws := n }

/-- V[x] (R21). -/
def State.readV (s : State) (x : Reg) : Byte := s.v[x.val]

/-- The number of VF, the flag register (R23). -/
abbrev regF : Reg := 15

/-! ### Memory -/

/-- The bytes of the default FONT: glyph g is the 5 bytes at 5 g (R66). The spec marks them as general
knowledge. UNVERIFIED (notes/assumptions/3.md), unsafe. -/
def defaultFontBytes : List Byte :=
  [0xF0, 0x90, 0x90, 0x90, 0xF0] ++ [0x20, 0x60, 0x20, 0x20, 0x70] ++
  [0xF0, 0x10, 0xF0, 0x80, 0xF0] ++ [0xF0, 0x10, 0xF0, 0x10, 0xF0] ++
  [0x90, 0x90, 0xF0, 0x10, 0x10] ++ [0xF0, 0x80, 0xF0, 0x10, 0xF0] ++
  [0xF0, 0x80, 0xF0, 0x90, 0xF0] ++ [0xF0, 0x10, 0x20, 0x40, 0x40] ++
  [0xF0, 0x90, 0xF0, 0x90, 0xF0] ++ [0xF0, 0x90, 0xF0, 0x10, 0xF0] ++
  [0xF0, 0x90, 0xF0, 0x90, 0x90] ++ [0xE0, 0x90, 0xE0, 0x90, 0xE0] ++
  [0xF0, 0x80, 0x80, 0x80, 0xF0] ++ [0xE0, 0x90, 0x90, 0x90, 0xE0] ++
  [0xF0, 0x80, 0xF0, 0x80, 0xF0] ++ [0xF0, 0x80, 0xF0, 0x80, 0x80]

/-- The default of the parameter FONT (R66, D13). -/
def defaultFont : Config.Font := ⟨⟨defaultFontBytes⟩, rfl⟩

/-- What an address that is not listed reads as, its content after a reset with the default FONT and a
ROM of zeros: the default FONT at 0x000..0x04F, 0 elsewhere (R43, R66, R262). A byte of another FONT is
listed where it differs. -/
def Memory.unlisted (a : Nat) : Byte := defaultFontBytes.getD a 0

/-- The byte at an address (R62). -/
def Memory.read : Memory → Nat → Byte
  | [], a => Memory.unlisted a
  | (c, d) :: m, a => if a = c then d else Memory.read m a

/-- MEM[a] <- b, and no other byte (R63). Keeps the canonical form: a byte equal to what its address
reads as when unlisted is not listed. -/
def Memory.write : Memory → Nat → Byte → Memory
  | [], a, b => if b = Memory.unlisted a then [] else [(a, b)]
  | (c, d) :: m, a, b =>
    if a < c then (if b = Memory.unlisted a then (c, d) :: m else (a, b) :: (c, d) :: m)
    else if a = c then (if b = Memory.unlisted a then m else (a, b) :: m)
    else (c, d) :: Memory.write m a b

/-- Write bytes at a, a + 1, ..., in ascending order (R71). -/
def Memory.writeAll (m : Memory) (a : Nat) : List Byte → Memory
  | [] => m
  | b :: bs => Memory.writeAll (m.write a b) (a + 1) bs

/-- The canonical form from address `lo` on: strictly rising addresses of the address space (R60),
none listed with the byte it reads as unlisted. -/
def Memory.wfFrom (lo : Nat) : Memory → Bool
  | [] => true
  | (a, b) :: m =>
    decide (lo ≤ a) && decide (a < Config.memSize) && decide (b ≠ Memory.unlisted a) &&
      Memory.wfFrom (a + 1) m

/-- The canonical form of a memory. -/
def Memory.wf (m : Memory) : Bool := Memory.wfFrom 0 m

/-- The n bytes from address a on lie in the address space (R60, R72). Addresses are not reduced
(R61); a range of no byte is always good (R72, DXYN with N = 0). -/
def rangeOk (a n : Nat) : Bool := decide (n = 0 ∨ a + n ≤ Config.memSize)

/-- The n bytes at a, a + 1, ..., or nothing if one of them is out of range (R62, R72). -/
def State.readRange (s : State) (a n : Nat) : Option (List Byte) :=
  if rangeOk a n then some ((List.range n).map fun k => s.mem.read (a + k)) else none

/-- The bytes stored at a, a + 1, ..., or nothing if one of them is out of range: no byte is then
written (R63, R72). -/
def State.writeRange (s : State) (a : Nat) (bs : List Byte) : Option State :=
  if rangeOk a bs.length then some (s.setMem (s.mem.writeAll a bs)) else none

/-! ### The step's parts -/

/-- A step is taken only when RUN_STATE = RUNNING and FAULT = NONE (R221). -/
def State.enabled (s : State) : Bool :=
  decide (s.runState = .running) && decide (s.fault = .none)

/-- The instruction word at PC, high byte first, or nothing if PC >= 4095 (R64, R226). -/
def State.fetch (s : State) : Option Word :=
  match s.readRange s.pc.toNat 2 with
  | some [hi, lo] => some (wordOfBytes hi lo)
  | _ => none

/-- PC <- (A + 2) mod 65536, before the instruction's effect (R27, R28, R94). -/
def State.fetchAhead (s : State) : State := s.setPc (s.pc + 2)

/-- What a step requested while none is enabled answers: the state as it is (R221, R245, and vectors
KT18, P6 of spec/95_test_vectors.md). DEDUCED (notes/assumptions/1.md), safe. -/
def notEnabled (s : State) : Result := .next s

/-- The state after entering a fault: FAULT <- c, RUN_STATE <- QUIT, nothing else (R222). -/
def State.faulted (s : State) (c : FaultCode) : State := (s.setFault c).setRunState .quit

/-- `raise Fault(c)`, the one way an instruction or a fetch faults (R222). -/
def raiseFault (c : FaultCode) (s : State) : Result := .next (s.faulted c)

/-- The state after a skip of the next word, or the same state (R129). -/
def State.skipIf (s : State) (c : Bool) : State := if c then s.setPc (s.pc + 2) else s

/-! ### The stack -/

/-- Write STACK[SP], then increment SP; nothing if SP = 12 (R31, R32). -/
def State.push (s : State) (w : Word) : Option State :=
  if h : s.sp.val < Config.stackCapacity then
    some ((s.setStack ⟨s.sp.val, h⟩ w).setSp ⟨s.sp.val + 1, Nat.succ_lt_succ h⟩)
  else none

/-- Decrement SP, then read STACK[SP]; nothing if SP = 0. The slot keeps its content (R30 to R32). -/
def State.pop (s : State) : Option (Word × State) :=
  if h : 0 < s.sp.val then
    have hk : s.sp.val - 1 < Config.stackCapacity := by have := s.sp.isLt; omega
    some (s.stack[s.sp.val - 1], s.setSp ⟨s.sp.val - 1, Nat.lt_succ_of_lt hk⟩)
  else none

/-! ### Registers in bulk -/

/-- V[k], V[k+1], ... <- the bytes given, one register a byte (R167). -/
def State.writeRegs (s : State) (k : Nat) : List Byte → State
  | [] => s
  | b :: bs =>
    State.writeRegs (if h : k < Config.numV then s.setV ⟨k, h⟩ b else s) (k + 1) bs

/-! ### The framebuffer -/

/-- FB[y][x]; false outside the grid, which no instruction reaches (R35, R183). -/
def pixel (fb : FrameBuffer) (y x : Nat) : Bool :=
  if h : y < Config.displayHeight ∧ x < Config.displayWidth then (fb[y]'h.1)[x]'h.2 else false

/-- FB[y][x] <- not FB[y][x] (R182). -/
def flipPixel (fb : FrameBuffer) (y x : Nat) : FrameBuffer :=
  if h : y < Config.displayHeight ∧ x < Config.displayWidth then
    fb.set y ((fb[y]'h.1).set x (!(fb[y]'h.1)[x]'h.2) h.2) h.1
  else fb

/-- Every pixel false (R181). -/
def blankFb : FrameBuffer :=
  Vector.replicate Config.displayHeight (Vector.replicate Config.displayWidth false)

/-- A framebuffer being drawn on, and whether a set bit has met a lit pixel (R182). -/
structure Canvas where
  fb : FrameBuffer
  hit : Bool
  deriving DecidableEq, Repr

/-- One set or clear sprite bit at row y, column x (R182: collision, then XOR). -/
def Canvas.plot (c : Canvas) (y x : Nat) (bit : Bool) : Canvas :=
  if bit then ⟨flipPixel c.fb y x, c.hit || pixel c.fb y x⟩ else c

/-- Columns col, col + 1, ... of one sprite row, `left` of them, most significant bit first, leaving
the loop at the right edge (R182). -/
def Canvas.drawCols (c : Canvas) (y x0 : Nat) (b : Byte) (col : Nat) : Nat → Canvas
  | 0 => c
  | left + 1 =>
    if x0 + col ≥ Config.displayWidth then c
    else Canvas.drawCols (c.plot y (x0 + col) (b.getMsbD col)) y x0 b (col + 1) left

/-- Sprite rows at y, y + 1, ..., leaving the loop at the bottom edge (R182). -/
def Canvas.drawRows (c : Canvas) (y x0 : Nat) : List Byte → Canvas
  | [] => c
  | b :: bs =>
    if y ≥ Config.displayHeight then c
    else Canvas.drawRows (c.drawCols y x0 b 0 8) (y + 1) x0 bs

/-! ### Keys -/

/-- The smallest pressed key (R194, D10). -/
def firstPressed (keys : Vector Bool Config.numKeys) : Option Key :=
  (List.finRange 16).find? fun k => keys[k.val]

/-- The latch entry of a key (R37). -/
def State.keyDown (s : State) (k : Key) : Bool := s.keys[k.val]

/-- A stalled FX0A: AWAITING_KEY <- true, the fetch-ahead is undone (R194). -/
def State.stall (s : State) : State := (s.setAwaitingKey true).setPc (s.pc - 2)

end Sys2Proof.Machine
end

