-- ==== Sys2Proof/Machine/Operands.lean ====
section
/-! DEFINITION. The operand forms: immediates and addresses (spec/30_encoding.md R93), the indexed
address (spec/42_index_memory.md R160), the decimal digits, the register list and the sprite's
starting position. -/

namespace Sys2Proof.Machine

/-- zext_16(NNN) (R93). -/
def zextNNN (nnn : Addr12) : Word := nnn.setWidth 16

/-- zext_16(V[X]). -/
def zextByte (b : Byte) : Word := b.setWidth 16

/-- The base address I of a memory access, a plain integer; the access goes to I, I + 1, ... (R160). -/
def State.indexAddr (s : State) : Nat := s.i.toNat

/-- The glyph address FONT_BASE + V[X] × 5, FONT_BASE = 0, the whole byte used (R163, D6). -/
def glyphAddr (b : Byte) : Word := zextByte b * BitVec.ofNat 16 Config.glyphSize

/-- Hundreds, tens, units (R165). -/
def decimalDigits (b : Byte) : List Byte := [b / 100, (b / 10) % 10, b % 10]

/-- V[0], ..., V[x] (R166). -/
def State.regsUpTo (s : State) (x : Reg) : List Byte := s.v.toList.take (x.val + 1)

/-- The sprite's first column, V[X] mod DISPLAY_WIDTH (R182). -/
def spriteX (b : Byte) : Nat := b.toNat % Config.displayWidth

/-- The sprite's first row, V[Y] mod DISPLAY_HEIGHT (R182). -/
def spriteY (b : Byte) : Nat := b.toNat % Config.displayHeight

/-- The key a register names, or nothing if its value is above 15: the index is not masked (R193). -/
def keyOf (b : Byte) : Option Key := if h : b.toNat < 16 then some ⟨b.toNat, h⟩ else none

/-- The byte of a key number (R194). -/
def byteOfKey (k : Key) : Byte := BitVec.ofNat 8 k.val

end Sys2Proof.Machine
end

