-- ==== Sys2Proof/Machine/Flags.lean ====
section
/-! DEFINITION. What the six flag-writing instructions put into VF (spec/10_state.md R23). Comparisons
are on the unreduced unsigned values (spec/41_arith_logic.md R140). -/

namespace Sys2Proof.Machine

/-- A flag as a byte, 1 or 0. -/
def flagByte (c : Bool) : Byte := if c then 1 else 0

/-- 1 if a + b > 255, else 0 (R147). -/
def carryFlag (a b : Byte) : Byte := flagByte (decide (a.toNat + b.toNat > 255))

/-- 1 if a - b needs no borrow, that is b <= a, else 0 (R148, R150). -/
def noBorrowFlag (a b : Byte) : Byte := flagByte (decide (b.toNat ≤ a.toNat))

/-- Bit 0 before a right shift (R149). -/
def shiftRightFlag (a : Byte) : Byte := a &&& 1

/-- Bit 7 before a left shift (R151). -/
def shiftLeftFlag (a : Byte) : Byte := a >>> 7

/-- 1 if a set sprite bit met a lit pixel, else 0 (R182). -/
def collisionFlag (hit : Bool) : Byte := flagByte hit

end Sys2Proof.Machine
end

