-- ==== Sys2Proof/Machine/Alu.lean ====
section
/-! DEFINITION. Load immediate, arithmetic, logic, shift and random (spec/41_arith_logic.md). The five
flag writers run their two statements in the order written: VF first, then V[X] from the registers as
the first statement left them (spec/10_state.md R24; the spec's decision D7, UNVERIFIED, unsafe,
notes/assumptions/8.md). -/

namespace Sys2Proof.Machine

/-- 6XNN: V[X] <- NN (R141). -/
def execLdImm (x : Reg) (nn : Byte) (s : State) : Result := .next (s.setV x nn)

/-- 7XNN: V[X] <- (V[X] + NN) mod 256, no flag (R142). -/
def execAddImm (x : Reg) (nn : Byte) (s : State) : Result := .next (s.setV x (s.readV x + nn))

/-- 8XY0: V[X] <- V[Y] (R143). -/
def execLdReg (x y : Reg) (s : State) : Result := .next (s.setV x (s.readV y))

/-- 8XY1: V[X] <- V[X] OR V[Y] (R144). -/
def execOrReg (x y : Reg) (s : State) : Result := .next (s.setV x (s.readV x ||| s.readV y))

/-- 8XY2: V[X] <- V[X] AND V[Y] (R145). -/
def execAndReg (x y : Reg) (s : State) : Result := .next (s.setV x (s.readV x &&& s.readV y))

/-- 8XY3: V[X] <- V[X] XOR V[Y] (R146). -/
def execXorReg (x y : Reg) (s : State) : Result := .next (s.setV x (s.readV x ^^^ s.readV y))

/-- 8XY4: VF <- carry; then V[X] <- (V[X] + V[Y]) mod 256 (R147). -/
def execAddReg (x y : Reg) (s : State) : Result :=
  let t := s.setV regF (carryFlag (s.readV x) (s.readV y))
  .next (t.setV x (t.readV x + t.readV y))

/-- 8XY5: VF <- no borrow; then V[X] <- (V[X] - V[Y]) mod 256 (R148). -/
def execSubReg (x y : Reg) (s : State) : Result :=
  let t := s.setV regF (noBorrowFlag (s.readV x) (s.readV y))
  .next (t.setV x (t.readV x - t.readV y))

/-- 8XY6: VF <- bit 0 of V[X]; then V[X] <- V[X] >> 1; Y ignored (R149). -/
def execShr (x _y : Reg) (s : State) : Result :=
  let t := s.setV regF (shiftRightFlag (s.readV x))
  .next (t.setV x (t.readV x >>> 1))

/-- 8XY7: VF <- no borrow of V[Y] - V[X]; then V[X] <- (V[Y] - V[X]) mod 256 (R150). -/
def execSubnReg (x y : Reg) (s : State) : Result :=
  let t := s.setV regF (noBorrowFlag (s.readV y) (s.readV x))
  .next (t.setV x (t.readV y - t.readV x))

/-- 8XYE: VF <- bit 7 of V[X]; then V[X] <- (V[X] << 1) mod 256; Y ignored (R151). -/
def execShl (x _y : Reg) (s : State) : Result :=
  let t := s.setV regF (shiftLeftFlag (s.readV x))
  .next (t.setV x (t.readV x <<< 1))

/-- CXNN: V[X] <- draw8() AND NN, the draw a free value, a new one at every execution (R152, R153). -/
def execRnd (x : Reg) (nn : Byte) (s : State) : Result :=
  .next ((s.setV x (Config.randomSource s.draws &&& nn)).setDraws (s.draws + 1))

end Sys2Proof.Machine
end

