-- ==== Sys2Proof/Machine/Control.lean ====
section
/-! DEFINITION. Control flow (spec/40_control_flow.md): return, jumps, call and the four skips on
register values. In every meaning PC already holds A + 2 (R120). -/

namespace Sys2Proof.Machine

/-- 00EE: pop PC; Fault(STACK_UNDERFLOW) if the stack is empty (R121). -/
def execRet (s : State) : Result :=
  match s.pop with
  | some (w, t) => .next (t.setPc w)
  | none => raiseFault .stackUnderflow s

/-- 1NNN: PC <- NNN (R122). -/
def execJp (nnn : Addr12) (s : State) : Result := .next (s.setPc (zextNNN nnn))

/-- 2NNN: push PC, PC <- NNN; Fault(STACK_OVERFLOW) if the stack is full (R123). -/
def execCall (nnn : Addr12) (s : State) : Result :=
  match s.push s.pc with
  | some t => .next (t.setPc (zextNNN nnn))
  | none => raiseFault .stackOverflow s

/-- BNNN: PC <- V[0] + NNN, not masked to 12 bits (R124, D5). -/
def execJpV0 (nnn : Addr12) (s : State) : Result :=
  .next (s.setPc (zextByte (s.readV 0) + zextNNN nnn))

/-- 3XNN: skip if V[X] = NN (R125). -/
def execSeImm (x : Reg) (nn : Byte) (s : State) : Result :=
  .next (s.skipIf (decide (s.readV x = nn)))

/-- 4XNN: skip if V[X] differs from NN (R126). -/
def execSneImm (x : Reg) (nn : Byte) (s : State) : Result :=
  .next (s.skipIf (decide (s.readV x ≠ nn)))

/-- 5XY0: skip if V[X] = V[Y] (R127). -/
def execSeReg (x y : Reg) (s : State) : Result :=
  .next (s.skipIf (decide (s.readV x = s.readV y)))

/-- 9XY0: skip if V[X] differs from V[Y] (R128). -/
def execSneReg (x y : Reg) (s : State) : Result :=
  .next (s.skipIf (decide (s.readV x ≠ s.readV y)))

end Sys2Proof.Machine
end

