-- ==== Sys2Proof/Machine/Display.lean ====
section
/-! DEFINITION. Display instructions (spec/43_display.md). -/

namespace Sys2Proof.Machine

/-- 00E0: every pixel false, DIRTY <- true (R181). -/
def execCls (s : State) : Result := .next ((s.setFb blankFb).setDirty true)

/-- DXYN: the sprite of N bytes at I, XORed at (V[X] mod 64, V[Y] mod 32) and clipped; VF the
collision flag, DIRTY <- true. The position is read before VF is written, and all N rows must lie in
memory (R182, D8; notes/assumptions/7.md). -/
def execDrw (x y : Reg) (n : Nibble) (s : State) : Result :=
  match s.readRange s.indexAddr n.toNat with
  | none => raiseFault .addressRange s
  | some rows =>
    let c := Canvas.drawRows ⟨s.fb, false⟩ (spriteY (s.readV y)) (spriteX (s.readV x)) rows
    .next (((s.setFb c.fb).setV regF (collisionFlag c.hit)).setDirty true)

end Sys2Proof.Machine
end

