-- ==== Sys2Proof/Machine/Index.lean ====
section
/-! DEFINITION. Index register and memory (spec/42_index_memory.md). Memory accesses leave I unchanged
(R160); the range is checked before any effect (spec/20_memory.md R72). -/

namespace Sys2Proof.Machine

/-- ANNN: I <- NNN (R161). -/
def execLdI (nnn : Addr12) (s : State) : Result := .next (s.setI (zextNNN nnn))

/-- FX1E: I <- (I + V[X]) mod 65536, no flag (R162). -/
def execAddI (x : Reg) (s : State) : Result := .next (s.setI (s.i + zextByte (s.readV x)))

/-- FX29: I <- V[X] × 5 (R163). -/
def execLdF (x : Reg) (s : State) : Result := .next (s.setI (glyphAddr (s.readV x)))

/-- FX33: the decimal digits of V[X] to I, I + 1, I + 2 (R165). -/
def execLdB (x : Reg) (s : State) : Result :=
  match s.writeRange s.indexAddr (decimalDigits (s.readV x)) with
  | some t => .next t
  | none => raiseFault .addressRange s

/-- FX55: V[0]..V[X] to memory from I on (R166). -/
def execStRegs (x : Reg) (s : State) : Result :=
  match s.writeRange s.indexAddr (s.regsUpTo x) with
  | some t => .next t
  | none => raiseFault .addressRange s

/-- FX65: memory from I on to V[0]..V[X] (R167). -/
def execLdRegs (x : Reg) (s : State) : Result :=
  match s.readRange s.indexAddr (x.val + 1) with
  | some bs => .next (s.writeRegs 0 bs)
  | none => raiseFault .addressRange s

end Sys2Proof.Machine
end

