-- ==== Sys2Proof/Machine/Input.lean ====
section
/-! DEFINITION. Keypad and timer instructions (spec/44_input_timers.md). -/

namespace Sys2Proof.Machine

/-- EX9E: skip if key V[X] is pressed; Fault(KEY_INDEX) if V[X] > 15 (R191, R193). -/
def execSkp (x : Reg) (s : State) : Result :=
  match keyOf (s.readV x) with
  | some k => .next (s.skipIf (s.keyDown k))
  | none => raiseFault .keyIndex s

/-- EXA1: skip if key V[X] is not pressed; Fault(KEY_INDEX) if V[X] > 15 (R192, R193). -/
def execSknp (x : Reg) (s : State) : Result :=
  match keyOf (s.readV x) with
  | some k => .next (s.skipIf (!s.keyDown k))
  | none => raiseFault .keyIndex s

/-- FX07: V[X] <- DT (R195). -/
def execLdVxDt (x : Reg) (s : State) : Result := .next (s.setV x s.dt)

/-- The capturing half of FX0A: the smallest pressed key, if any, becomes CAPTURED_KEY (R194, D10). -/
def State.captureKey (s : State) : State :=
  match firstPressed s.keys with
  | some k => s.setCapturedKey (some k)
  | none => s

/-- FX0A: wait for a key to be pressed and released, one stall a step (R194). Within one latch two FX0A
steps can change CAPTURED_KEY: one completes, the captured key being up, and the next captures another
key that is down. The pseudocode of R194 gives this and its corner case (e) says at most one; the model
follows the pseudocode. DEDUCED (notes/assumptions/15.md), safe. -/
def execLdVxK (x : Reg) (s : State) : Result :=
  match s.capturedKey with
  | none => .next s.captureKey.stall
  | some k =>
    if s.keyDown k then .next s.stall
    else .next (((s.setV x (byteOfKey k)).setCapturedKey none).setAwaitingKey false)

/-- FX15: DT <- V[X] (R196). -/
def execLdDtVx (x : Reg) (s : State) : Result := .next (s.setDt (s.readV x))

/-- FX18: ST <- V[X] (R197). -/
def execLdStVx (x : Reg) (s : State) : Result := .next (s.setSt (s.readV x))

end Sys2Proof.Machine
end

