-- ==== Sys2Proof/Machine/Unrecognized.lean ====
section
/-! DEFINITION. Every word that is none of the 34 patterns (spec/45_unrecognized.md). -/

namespace Sys2Proof.Machine

/-- Nothing: PC was already advanced by the step. Never a fault (R211, R212). -/
def execNop (_op : Word) (s : State) : Result := .next s

end Sys2Proof.Machine
end

