-- ==== Sys2Proof/Machine/Step.lean ====
section
/-! DEFINITION. One step of the Executor (spec/30_encoding.md R94). -/

namespace Sys2Proof.Machine

/-- Fetch, advance PC, decode, apply, when a step is enabled (R94, R221); a fetch out of range faults
with PC unchanged (R226). -/
def step (s : State) : Host.Outcome State Fault Refusal :=
  if s.enabled then
    match s.fetch with
    | some op => exec (decodeWord op) s.fetchAhead
    | none => raiseFault .addressRange s
  else notEnabled s

/-- The state with an instruction word, numbered as the opcode table numbers it, stored at PC, and
with a step enabled (R221), so that the next step runs that word. It stands for the load of a program,
which the host does from outside (R261; notes/assumptions/2.md). -/
def State.withFetchWord (s : State) (nbits w : Nat) : State :=
  (((s.setMem (s.mem.writeAll s.pc.toNat
    [wordHi (tableWord nbits w), wordLo (tableWord nbits w)])).setRunState .running).setFault .none)

end Sys2Proof.Machine
end

