-- ==== Sys2Proof/Machine/Ports.lean ====
section
/-! DEFINITION. What the outside world does to the Machine between steps: the host events and the read
ports (spec/60_exceptions.md R236 to R242, spec/70_reset_and_hazards.md R260, R261). -/

namespace Sys2Proof.Machine

/-- An operation the host performs between steps (R12). -/
inductive HostEvent where
  /-- Reset(rom, len), len the length of rom (R261). -/
  | reset (rom : List Byte)
  /-- RefreshKeys(k) (R238). -/
  | refreshKeys (k : Vector Bool Config.numKeys)
  /-- Tick (R236). -/
  | tick
  /-- ClearDirty (R240). -/
  | clearDirty
  /-- SetRunState(r) (R242). -/
  | setRunState (r : RunState)
  deriving DecidableEq, Repr

/-- The length of a ROM that Reset accepts (R261, R263). -/
def romLenOk (rom : List Byte) : Bool :=
  decide (rom.length ≠ 0) && decide (rom.length ≤ Config.maxRomLen)

/-- The open parameters that a host supplies and that no run changes (R6): FONT with its default (R66,
D13) and INSTRUCTIONS_PER_FRAME (D18). RANDOM_SOURCE, the third, is `Config.randomSource`. -/
structure Params where
  /-- FONT (R66). -/
  font : Config.Font := defaultFont
  /-- INSTRUCTIONS_PER_FRAME; only the reference schedule reads it (R243). -/
  instructionsPerFrame : Nat
  deriving DecidableEq, Repr

/-- Memory at reset before the ROM copy: FONT at 0x000..0x04F, 0 elsewhere (R66, R262). -/
def fontMem (f : Config.Font) : Memory := State.reset.mem.writeAll Config.fontBase f.toList

/-- Reset(rom, len): every element at its reset value, FONT that of the parameters, then either the ROM
copied to 0x200.. or the fault ROM_SIZE (R261). Nothing of the Machine survives; the model's draw counter does, since the draws
may not be assumed repeatable across resets (R153; DESIGN CHOICE, notes/assumptions/4.md, safe). -/
def State.load (p : Params) (s : State) (rom : List Byte) : State :=
  let fresh := (State.reset.setMem (fontMem p.font)).setDraws s.draws
  if romLenOk rom then
    ((fresh.setMem (fresh.mem.writeAll Config.programBase rom)).setFault .none).setRunState .running
  else fresh.faulted .romSize

/-- Decrement by one, floored at 0 (R236). -/
def floorDec (b : Byte) : Byte := if b = 0 then 0 else b - 1

/-- Tick: both timers, independently (R236). -/
def State.tick (s : State) : State := (s.setDt (floorDec s.dt)).setSt (floorDec s.st)

/-- The state after a host event. Performed in any run state and whatever FAULT holds (R230, R236). -/
def hostEvent (p : Params) (e : HostEvent) (s : State) : State :=
  match e with
  | .reset rom => State.load p s rom
  | .refreshKeys k => s.setKeys k
  | .tick => s.tick
  | .clearDirty => s.setDirty false
  | .setRunState r => s.setRunState r

/-- Output sound_active = (ST > 0) (R34, R237). -/
def State.soundActive (s : State) : Bool := decide (0 < s.st.toNat)

/-- The display read port: the framebuffer and DIRTY (R239). -/
def State.readDisplay (s : State) : FrameBuffer × Bool := (s.fb, s.dirty)

/-- The run-state read port: RUN_STATE and FAULT (R241). -/
def State.readRunState (s : State) : RunState × FaultCode := (s.runState, s.fault)

/-- The number of a fault code (R41). -/
def faultNumber : FaultCode → Nat
  | .none => 0
  | .romSize => 1
  | .stackOverflow => 2
  | .stackUnderflow => 3
  | .addressRange => 4
  | .keyIndex => 5

end Sys2Proof.Machine
end

