-- ==== Sys2Proof/Machine/System.lean ====
section
/-! DEFINITION. The Machine under a host: steps and host events in any order
(spec/60_exceptions.md R243), and the reference schedule of the outer loop. -/

namespace Sys2Proof.Machine

/-- What happens to the Machine: a step is requested, or the host acts between steps (R12, R243). -/
inductive Action where
  | step
  | host (e : HostEvent)
  deriving DecidableEq, Repr

/-- The outcome of one action. -/
def act (p : Params) (a : Action) (s : State) : Result :=
  match a with
  | .step => step s
  | .host e => .next (hostEvent p e s)

/-- Actions in order, stopping at the first outcome that is no next state. -/
def runActions (p : Params) : List Action → State → Result
  | [], s => .next s
  | a :: as, s =>
    match act p a s with
    | .next t => runActions p as t
    | .fault r => .fault r
    | .refused r => .refused r

/-- After a frame: the host presents the framebuffer and clears DIRTY, if DIRTY (R239, R240, R243). -/
def State.present (p : Params) (s : State) : State :=
  if s.dirty then hostEvent p .clearDirty s else s

/-- One iteration of the reference schedule: RefreshKeys, INSTRUCTIONS_PER_FRAME steps, Tick, present
(R243). The number of steps is an open parameter (R6). -/
def outerIteration (p : Params) (k : Vector Bool Config.numKeys) (s : State) : Result :=
  match runActions p (.host (.refreshKeys k) ::
      (List.replicate p.instructionsPerFrame .step ++ [.host .tick])) s with
  | .next t => .next (State.present p t)
  | .fault r => .fault r
  | .refused r => .refused r

end Sys2Proof.Machine
end

