-- ==== Sys2Proof/Safety.lean ====
section
/-! DEFINITION. What counts as a good state and a safe step, in the words claims use: the invariant of
the Machine, the table of fault causes (spec/60_exceptions.md R223), and the closed form of a sprite
(spec/43_display.md R182). -/

namespace Sys2Proof.Safety

open Sys2Proof.Machine

/-- The key-wait fields agree with each other and with PC (R39): a captured key means a wait is on, and
while a wait is on PC holds the address of an FX0A word. -/
abbrev KeyWaitOk (s : State) : Prop :=
  (s.capturedKey ≠ none → s.awaitingKey = true) ∧
  (s.awaitingKey = true → ∃ x, s.fetch.map decodeWord = some (.ldVxK x))

/-- The invariant of the Machine: memory in canonical form, all of it inside the address space (R60),
and the key-wait fields sound (R39). -/
abbrev Inv (s : State) : Prop := s.mem.wf = true ∧ KeyWaitOk s

/-- The fault an instruction raises in a state whose PC holds A + 2, as the table of causes lists it
(R223). -/
def faultOf (i : Instr) (s : State) : Option FaultCode :=
  match i with
  | .call _ => if s.sp.val = 12 then some .stackOverflow else none
  | .ret => if s.sp.val = 0 then some .stackUnderflow else none
  | .ldB _ => if s.i.toNat + 2 > 4095 then some .addressRange else none
  | .stRegs x => if s.i.toNat + x.val > 4095 then some .addressRange else none
  | .ldRegs x => if s.i.toNat + x.val > 4095 then some .addressRange else none
  | .drw _ _ n =>
    if n.toNat ≥ 1 ∧ s.i.toNat + n.toNat - 1 > 4095 then some .addressRange else none
  | .skp x => if (s.readV x).toNat > 15 then some .keyIndex else none
  | .sknp x => if (s.readV x).toNat > 15 then some .keyIndex else none
  | .cls | .jp _ | .seImm _ _ | .sneImm _ _ | .seReg _ _ | .ldImm _ _ | .addImm _ _ | .ldReg _ _
  | .orReg _ _ | .andReg _ _ | .xorReg _ _ | .addReg _ _ | .subReg _ _ | .shr _ _ | .subnReg _ _
  | .shl _ _ | .sneReg _ _ | .ldI _ | .jpV0 _ | .rnd _ _ | .ldVxDt _ | .ldVxK _ | .ldDtVx _
  | .ldStVx _ | .addI _ | .ldF _ | .nop _ => none

/-- A step is enabled, the fetch is in range, and the instruction fetched raises no fault. -/
def SafeStep (s : State) : Prop :=
  s.enabled = true ∧ ∃ op, s.fetch = some op ∧ faultOf (decodeWord op) s.fetchAhead = none

/-- The sprite bit that falls on row y, column x, of a sprite with the given rows whose first pixel is
at row y0, column x0; pixels past an edge are not asked for (R182). -/
def spriteBit (rows : List Byte) (y0 x0 y x : Nat) : Bool :=
  decide (y0 ≤ y) && decide (x0 ≤ x) && decide (x < x0 + 8) &&
    ((rows.getD (y - y0) 0).getMsbD (x - x0))

/-! ### Frames: what an instruction leaves alone -/

/-- Nothing but PC differs: every register, flag, timer, pixel, key, stack slot and byte of memory is
as it was. -/
def OnlyPc (s t : State) : Prop := t = { s with pc := t.pc }

/-- Nothing but I differs. -/
def OnlyI (s t : State) : Prop := t = { s with i := t.i }

/-- Nothing but V[x] differs. -/
def OnlyV (x : Reg) (s t : State) : Prop :=
  t = { s with v := t.v } ∧ ∀ r, r ≠ x → t.readV r = s.readV r

/-- Nothing but V[x] and the flag VF differs. -/
def OnlyVAndF (x : Reg) (s t : State) : Prop :=
  t = { s with v := t.v } ∧ ∀ r, r ≠ x → r ≠ regF → t.readV r = s.readV r

/-- Nothing but memory differs, and there only the n bytes from address a on. -/
def OnlyMem (a n : Nat) (s t : State) : Prop :=
  t = { s with mem := t.mem } ∧ ∀ c, c < a ∨ a + n ≤ c → t.mem.read c = s.mem.read c

/-- Nothing but what a host may change while the Machine is halted differs (R230, R236 to R242). -/
def OnlyHostFields (s t : State) : Prop :=
  t = { s with dt := t.dt, st := t.st, dirty := t.dirty, keys := t.keys, runState := t.runState }

/-- The PC after a skip that is taken or not (R129), as a number. -/
def skipTarget (taken : Prop) [Decidable taken] (pc : Word) : Nat :=
  if taken then (pc.toNat + 2) % 65536 else pc.toNat

/-- The state after entering the fault c from s, with every other field as in s (R222). -/
def faultedState (s : State) (c : FaultCode) : State := { s with fault := c, runState := .quit }

/-! ### Instructions in a row -/

/-- The steps from a state on fetch these instructions, in this order (R94). -/
def fetchesInOrder : List Instr → State → Bool
  | [], _ => true
  | i :: is, s =>
    decide (s.fetch.map decodeWord = some i) &&
      match step s with
      | .next t => fetchesInOrder is t
      | .fault _ => false
      | .refused _ => false

/-- Well-formed sequences of n call and return pairs one after the other, each with the pairs its
subroutine makes inside it, at most d deep (R130). -/
inductive Balanced : Nat → Nat → List Instr → Prop where
  /-- No call. -/
  | done (d : Nat) : Balanced d 0 []
  /-- A call, the pairs its subroutine makes, its return, and the pairs that follow. -/
  | pair (d m n : Nat) (nnn : Addr12) (body rest : List Instr) (hb : Balanced d m body)
      (hr : Balanced (d + 1) n rest) :
      Balanced (d + 1) (n + 1) (.call nnn :: (body ++ .ret :: rest))

/-- The instructions that may write VF as a flag (R23). -/
def writesFlag : Instr → Bool
  | .addReg _ _ | .subReg _ _ | .shr _ _ | .subnReg _ _ | .shl _ _ | .drw _ _ _ => true
  | .cls | .ret | .jp _ | .call _ | .seImm _ _ | .sneImm _ _ | .seReg _ _ | .ldImm _ _ | .addImm _ _
  | .ldReg _ _ | .orReg _ _ | .andReg _ _ | .xorReg _ _ | .sneReg _ _ | .ldI _ | .jpV0 _ | .rnd _ _
  | .skp _ | .sknp _ | .ldVxDt _ | .ldVxK _ | .ldDtVx _ | .ldStVx _ | .addI _ | .ldF _ | .ldB _
  | .stRegs _ | .ldRegs _ | .nop _ => false

/-- V[r] is a destination of the instruction, named by its X field (R21, R167). -/
def destReg (i : Instr) (r : Reg) : Bool :=
  match i with
  | .ldImm x _ | .addImm x _ | .ldReg x _ | .orReg x _ | .andReg x _ | .xorReg x _ | .addReg x _
  | .subReg x _ | .shr x _ | .subnReg x _ | .shl x _ | .rnd x _ | .ldVxDt x | .ldVxK x => decide (r = x)
  | .ldRegs x => decide (r ≤ x)
  | .cls | .ret | .jp _ | .call _ | .seImm _ _ | .sneImm _ _ | .seReg _ _ | .sneReg _ _ | .ldI _
  | .jpV0 _ | .drw _ _ _ | .skp _ | .sknp _ | .ldDtVx _ | .ldStVx _ | .addI _ | .ldF _ | .ldB _
  | .stRegs _ | .nop _ => false

/-- The instruction reads the input latch (R37). -/
def readsKeys : Instr → Bool
  | .skp _ | .sknp _ | .ldVxK _ => true
  | .cls | .ret | .jp _ | .call _ | .seImm _ _ | .sneImm _ _ | .seReg _ _ | .ldImm _ _ | .addImm _ _
  | .ldReg _ _ | .orReg _ _ | .andReg _ _ | .xorReg _ _ | .addReg _ _ | .subReg _ _ | .shr _ _
  | .subnReg _ _ | .shl _ _ | .sneReg _ _ | .ldI _ | .jpV0 _ | .rnd _ _ | .drw _ _ _ | .ldVxDt _
  | .ldDtVx _ | .ldStVx _ | .addI _ | .ldF _ | .ldB _ | .stRegs _ | .ldRegs _ | .nop _ => false

end Sys2Proof.Safety
end

