-- ==== Sys2Proof/Certificates/Slice0/Obligations.lean ====
section
/-! DEFINITION. The statements for the provers, each from the rules of spec/ its docstring names. "The
spec's decision D<n>" means a row of spec/92_eei_decisions.md: what the spec chose where its source is
silent. A statement about registers, memory and pixels reads them by `readV`, `Memory.read` and `pixel`;
a frame `t = { s with f := t.f }` says that every field but f, memory byte for byte among them, is as
before. A `Params` is any value of the open parameters FONT and INSTRUCTIONS_PER_FRAME (R6). In every statement about `exec` the PC of the state given is A + 2 (R120). -/

open Sys2Proof Sys2Proof.Machine Sys2Proof.Safety

/-! ## Encoding and decoding -/

/-- R92: the six fields are the named slices of the word, as numbers and by masks, for every word. -/
def Obligations.FieldsAreTheNamedSlices : Prop :=
  ∀ op : Word,
    (fieldF op).toNat = op.toNat / 4096 ∧ (fieldX op).val = op.toNat / 256 % 16 ∧
    (fieldY op).val = op.toNat / 16 % 16 ∧ (fieldN op).toNat = op.toNat % 16 ∧
    (fieldNN op).toNat = op.toNat % 256 ∧ (fieldNNN op).toNat = op.toNat % 4096 ∧
    (fieldNNN op).setWidth 16 = op &&& 0x0FFF ∧ (fieldNN op).setWidth 16 = op &&& 0x00FF ∧
    (fieldN op).setWidth 16 = op &&& 0x000F ∧
    BitVec.ofNat 16 (fieldX op).val = (op >>> 8) &&& 0xF ∧
    BitVec.ofNat 16 (fieldY op).val = (op >>> 4) &&& 0xF

/-- R91, R96: decoding the encoding of a well-formed instruction gives it back, every operand at every
value. -/
def Obligations.DecodeOfEncodeIsTheInstruction : Prop :=
  ∀ i : Instr, i.wf = true → decodeWord (encode i) = i

/-- R96, R99: every word decodes to a well-formed instruction whose encoding is the word. -/
def Obligations.EncodeOfDecodeIsTheWord : Prop :=
  ∀ op : Word, (decodeWord op).wf = true ∧ encode (decodeWord op) = op

/-- R96: the decoder picks the row the selection table picks, and the rows do not overlap. -/
def Obligations.DecoderFollowsSelectionTable : Prop :=
  (∀ op : Word, (decodeWord op).row = (opcodeTable.find? fun r => r.selects op).getD catchAllRow) ∧
  ∀ r₁ ∈ opcodeTable, ∀ r₂ ∈ opcodeTable, ∀ op : Word,
    r₁.selects op = true → r₂.selects op = true → r₁ = r₂

/-- R97 to R100: the words that decode to the no-op are exactly those of the list of R100. -/
def Obligations.UnrecognizedWordsAreTheListed : Prop :=
  ∀ op : Word, decodeWord op = .nop op ↔
    (fieldF op = 0x0 ∧ op ≠ 0x00E0 ∧ op ≠ 0x00EE) ∨
    (fieldF op = 0x5 ∧ fieldN op ≠ 0) ∨
    (fieldF op = 0x8 ∧ fieldN op ∈ [0x8, 0x9, 0xA, 0xB, 0xC, 0xD, (0xF : Nibble)]) ∨
    (fieldF op = 0x9 ∧ fieldN op ≠ 0) ∨
    (fieldF op = 0xE ∧ fieldNN op ∉ [0x9E, (0xA1 : Byte)]) ∨
    (fieldF op = 0xF ∧
      fieldNN op ∉ [0x07, 0x0A, 0x15, 0x18, 0x1E, 0x29, 0x33, 0x55, (0x65 : Byte)])

/-- R96: one word of each family, written out from the table, decodes to its instruction. -/
def Obligations.SampleWordsDecode : Prop :=
  decodeWord 0x00E0 = .cls ∧ decodeWord 0x1ABC = .jp 0xABC ∧ decodeWord 0x2300 = .call 0x300 ∧
  decodeWord 0x3142 = .seImm 1 0x42 ∧ decodeWord 0x4143 = .sneImm 1 0x43 ∧
  decodeWord 0x5230 = .seReg 2 3 ∧ decodeWord 0x6FFF = .ldImm 15 0xFF ∧
  decodeWord 0x7003 = .addImm 0 3 ∧ decodeWord 0x8127 = .subnReg 1 2 ∧
  decodeWord 0x9230 = .sneReg 2 3 ∧ decodeWord 0xA2F0 = .ldI 0x2F0 ∧
  decodeWord 0xB300 = .jpV0 0x300 ∧ decodeWord 0xC00F = .rnd 0 0x0F ∧
  decodeWord 0xD015 = .drw 0 1 5 ∧ decodeWord 0xE0A1 = .sknp 0 ∧ decodeWord 0xF265 = .ldRegs 2 ∧
  decodeWord 0x01E0 = .nop 0x01E0

/-! ## The step -/

/-- R64, R94: when a step is enabled (R221, the spec's decision D19) and the two bytes at PC decode to a
well-formed instruction, the step is that instruction's effect on the state with PC two further. -/
def Obligations.StepRunsTheDecodedInstruction : Prop :=
  ∀ (s : State) (i : Instr) (rest : List Byte),
    s.runState = .running → s.fault = .none → s.pc.toNat ≤ 4094 →
    decode [s.mem.read s.pc.toNat, s.mem.read (s.pc.toNat + 1)] = .ok (i, rest) → i.wf = true →
    step s = exec i { s with pc := s.pc + 2 }

/-- R226 (the spec's decisions D1 to D3): a fetch at PC >= 4095 faults with PC unchanged; R221 with
KT18 and P6 (this model's entry 1): a step requested while none is enabled leaves the state as it is. -/
def Obligations.StepFaultsOnFetchOrWaits : Prop :=
  (∀ s : State, s.runState = .running → s.fault = .none → 4095 ≤ s.pc.toNat →
    step s = .next (faultedState s .addressRange)) ∧
  (∀ s : State, s.runState ≠ .running ∨ s.fault ≠ .none → step s = .next s)

/-- R220, R222, R242: every action on every state answers a next state; no fault of the spec ends a run
of the model. That entering a fault is a next state is this model's entry 6. That a step requested
where none is enabled (R221, the spec's decision D19) answers the same state is this model's entry 1,
from the vectors KT18 and P6, and not a rule. -/
def Obligations.EveryActionAnswersAState : Prop :=
  ∀ (p : Params) (a : Action) (s : State), ∃ t, act p a s = .next t

/-! ## Control flow -/

/-- R122: 1NNN sets PC to NNN, any NNN; after a jump to 0xFFF nothing can be fetched; a jump to its own
address leaves the whole state unchanged. -/
def Obligations.JumpSetsPc : Prop :=
  (∀ (nnn : Addr12) (s : State), ∃ t, exec (.jp nnn) s = .next t ∧
    t.pc.toNat = nnn.toNat ∧ OnlyPc s t ∧ (nnn = 0xFFF → t.fetch = none)) ∧
  (∀ (nnn : Addr12) (s : State), s.runState = .running → s.fault = .none →
    s.pc.toNat = nnn.toNat → s.fetch = some (encode (.jp nnn)) → step s = .next s)

/-- R124 with the spec's decision D5: BNNN sets PC to V0 + NNN, not masked. -/
def Obligations.JumpOffsetAddsV0 : Prop :=
  ∀ (nnn : Addr12) (s : State), ∃ t, exec (.jpV0 nnn) s = .next t ∧
    t.pc.toNat = (s.readV 0).toNat + nnn.toNat ∧ OnlyPc s t

/-- R125, R126: the skips on an immediate. -/
def Obligations.SkipsOnImmediate : Prop :=
  ∀ (x : Reg) (nn : Byte) (s : State),
    (∃ t, exec (.seImm x nn) s = .next t ∧
      t.pc.toNat = skipTarget (s.readV x = nn) s.pc ∧ OnlyPc s t) ∧
    (∃ t, exec (.sneImm x nn) s = .next t ∧
      t.pc.toNat = skipTarget (s.readV x ≠ nn) s.pc ∧ OnlyPc s t)

/-- R127, R128: the skips on two registers; a word of either family whose N nibble is not 0 does
nothing. -/
def Obligations.SkipsOnRegisters : Prop :=
  (∀ (op : Word) (s : State), fieldF op = 0x5 ∨ fieldF op = 0x9 → fieldN op ≠ 0 →
    exec (decodeWord op) s = .next s) ∧
  ∀ (x y : Reg) (s : State),
    (∃ t, exec (.seReg x y) s = .next t ∧
      t.pc.toNat = skipTarget (s.readV x = s.readV y) s.pc ∧ OnlyPc s t) ∧
    (∃ t, exec (.sneReg x y) s = .next t ∧
      t.pc.toNat = skipTarget (s.readV x ≠ s.readV y) s.pc ∧ OnlyPc s t)

/-- R123, R224 (FAULT is the spec's decision D1): 2NNN pushes PC and jumps while SP < 12, and faults
with SP = 12. -/
def Obligations.CallPushesOrOverflows : Prop :=
  ∀ (nnn : Addr12) (s : State),
    (s.sp.val < 12 → ∃ t, exec (.call nnn) s = .next t ∧
      t.stack[s.sp.val]? = some s.pc ∧ (∀ k, k ≠ s.sp.val → t.stack[k]? = s.stack[k]?) ∧
      t.sp.val = s.sp.val + 1 ∧ t.pc.toNat = nnn.toNat ∧
      t = { s with pc := t.pc, sp := t.sp, stack := t.stack }) ∧
    (s.sp.val = 12 → exec (.call nnn) s = .next (faultedState s .stackOverflow))

/-- R121, R225 (FAULT is the spec's decision D1, the stale slot D20): 00EE pops PC while SP > 0, and
faults with SP = 0. -/
def Obligations.ReturnPopsOrUnderflows : Prop :=
  ∀ s : State,
    (0 < s.sp.val → ∃ t, exec .ret s = .next t ∧
      s.stack[s.sp.val - 1]? = some t.pc ∧ t.sp.val = s.sp.val - 1 ∧
      t = { s with pc := t.pc, sp := t.sp }) ∧
    (s.sp.val = 0 → exec .ret s = .next (faultedState s .stackUnderflow))

/-- R130: when the steps from a state (R94; enabled, R221) fetch a well-formed sequence of call and
return pairs that fits the stack, they end with SP as before, with PC two further for each pair that
stands in no other (one pair: A + 2), and with nothing else changed but stale stack slots; no push
overflows. -/
def Obligations.CallReturnPairsRestorePc : Prop :=
  ∀ (d n : Nat) (is : List Instr) (s : State), Balanced d n is → s.sp.val + d ≤ 12 →
    s.runState = .running → s.fault = .none → fetchesInOrder is s = true →
    ∃ t, Host.Core.run core is.length s = .next t ∧
      t.pc.toNat = (s.pc.toNat + 2 * n) % 65536 ∧ t.sp = s.sp ∧
      (∀ k, k < s.sp.val → t.stack[k]? = s.stack[k]?) ∧ t = { s with pc := t.pc, stack := t.stack }

/-! ## Arithmetic and logic -/

/-- R141, R142: load and add an immediate, modulo 256 and without a flag. -/
def Obligations.ImmediateLoadAndAdd : Prop :=
  ∀ (x : Reg) (nn : Byte) (s : State),
    (∃ t, exec (.ldImm x nn) s = .next t ∧ t.readV x = nn ∧ OnlyV x s t) ∧
    (∃ t, exec (.addImm x nn) s = .next t ∧
      (t.readV x).toNat = ((s.readV x).toNat + nn.toNat) % 256 ∧ OnlyV x s t)

/-- R143 to R146: copy, OR, AND and XOR, bit by bit and without a flag. -/
def Obligations.CopyAndLogic : Prop :=
  ∀ (x y : Reg) (s : State),
    (∃ t, exec (.ldReg x y) s = .next t ∧ t.readV x = s.readV y ∧ OnlyV x s t) ∧
    (∃ t, exec (.orReg x y) s = .next t ∧ OnlyV x s t ∧ ∀ k,
      (t.readV x).getLsbD k = ((s.readV x).getLsbD k || (s.readV y).getLsbD k)) ∧
    (∃ t, exec (.andReg x y) s = .next t ∧ OnlyV x s t ∧ ∀ k,
      (t.readV x).getLsbD k = ((s.readV x).getLsbD k && (s.readV y).getLsbD k)) ∧
    (∃ t, exec (.xorReg x y) s = .next t ∧ OnlyV x s t ∧ ∀ k,
      (t.readV x).getLsbD k = ((s.readV x).getLsbD k ^^ (s.readV y).getLsbD k))

/-- R147, its table of outcomes; the rows with VF as an operand are the spec's decision D7. a, b and f
are the old V[X], V[Y] and VF. -/
def Obligations.AddWithCarryOutcomes : Prop :=
  ∀ (x y : Reg) (s : State) (a b f : Nat),
    a = (s.readV x).toNat → b = (s.readV y).toNat → f = (s.readV regF).toNat →
    ∃ t, exec (.addReg x y) s = .next t ∧ OnlyVAndF x s t ∧
      (x ≠ regF → y ≠ regF → (t.readV x).toNat = (a + b) % 256 ∧
        (t.readV regF).toNat = if a + b > 255 then 1 else 0) ∧
      (x ≠ regF → y = regF → (t.readV x).toNat = (a + if a + f > 255 then 1 else 0) % 256 ∧
        (t.readV regF).toNat = if a + f > 255 then 1 else 0) ∧
      (x = regF → y ≠ regF → (t.readV regF).toNat = ((if f + b > 255 then 1 else 0) + b) % 256) ∧
      (x = regF → y = regF → (t.readV regF).toNat = if f ≥ 128 then 2 else 0)

/-- R148, its table of outcomes; the rows with VF as an operand are the spec's decision D7. -/
def Obligations.SubtractOutcomes : Prop :=
  ∀ (x y : Reg) (s : State) (a b f : Nat),
    a = (s.readV x).toNat → b = (s.readV y).toNat → f = (s.readV regF).toNat →
    ∃ t, exec (.subReg x y) s = .next t ∧ OnlyVAndF x s t ∧
      (x ≠ regF → y ≠ regF → (t.readV x).toNat = (256 + a - b) % 256 ∧
        (t.readV regF).toNat = if b ≤ a then 1 else 0) ∧
      (x ≠ regF → y = regF → (t.readV x).toNat = (256 + a - if f ≤ a then 1 else 0) % 256 ∧
        (t.readV regF).toNat = if f ≤ a then 1 else 0) ∧
      (x = regF → y ≠ regF → (t.readV regF).toNat = (256 + (if b ≤ f then 1 else 0) - b) % 256) ∧
      (x = regF → y = regF → (t.readV regF).toNat = 0)

/-- R150, its table of outcomes; the rows with VF as an operand are the spec's decision D7. -/
def Obligations.ReverseSubtractOutcomes : Prop :=
  ∀ (x y : Reg) (s : State) (a b f : Nat),
    a = (s.readV x).toNat → b = (s.readV y).toNat → f = (s.readV regF).toNat →
    ∃ t, exec (.subnReg x y) s = .next t ∧ OnlyVAndF x s t ∧
      (x ≠ regF → y ≠ regF → (t.readV x).toNat = (256 + b - a) % 256 ∧
        (t.readV regF).toNat = if a ≤ b then 1 else 0) ∧
      (x ≠ regF → y = regF → (t.readV x).toNat = (256 + (if a ≤ f then 1 else 0) - a) % 256 ∧
        (t.readV regF).toNat = if a ≤ f then 1 else 0) ∧
      (x = regF → y ≠ regF → (t.readV regF).toNat = (256 + b - if f ≤ b then 1 else 0) % 256) ∧
      (x = regF → y = regF → (t.readV regF).toNat = 0)

/-- R149, R151, for every Y; the outcomes with X = F are the spec's decision D7. -/
def Obligations.ShiftOutcomes : Prop :=
  ∀ (x y : Reg) (s : State) (a : Nat), a = (s.readV x).toNat →
    (∃ t, exec (.shr x y) s = .next t ∧ OnlyVAndF x s t ∧
      (x ≠ regF → (t.readV x).toNat = a / 2 ∧ (t.readV regF).toNat = a % 2) ∧
      (x = regF → (t.readV regF).toNat = 0)) ∧
    (∃ t, exec (.shl x y) s = .next t ∧ OnlyVAndF x s t ∧
      (x ≠ regF → (t.readV x).toNat = 2 * a % 256 ∧ (t.readV regF).toNat = a / 128) ∧
      (x = regF → (t.readV regF).toNat = if a ≥ 128 then 2 else 0))

/-- R152 with the draw of R153, the spec's decision D11, as the free value of this model's entry 4:
V[X] is the draw AND NN, whatever the draw is, and the next draw is another free value. -/
def Obligations.RandomIsMaskedDraw : Prop :=
  ∀ (x : Reg) (nn : Byte) (s : State), ∃ t, exec (.rnd x nn) s = .next t ∧
    t.readV x = (Config.randomSource s.draws &&& nn) ∧ (∀ r, r ≠ x → t.readV r = s.readV r) ∧
    t = { s with v := t.v, draws := s.draws + 1 }

/-! ## Index register and memory -/

/-- R161: ANNN sets I. -/
def Obligations.LoadIndexSetsI : Prop :=
  ∀ (nnn : Addr12) (s : State), ∃ t, exec (.ldI nnn) s = .next t ∧
    t.i.toNat = nnn.toNat ∧ OnlyI s t

/-- R162, R163 with the spec's decision D6: FX1E adds modulo 65536, FX29 multiplies the whole byte. -/
def Obligations.IndexArithmetic : Prop :=
  ∀ (x : Reg) (s : State),
    (∃ t, exec (.addI x) s = .next t ∧
      t.i.toNat = (s.i.toNat + (s.readV x).toNat) % 65536 ∧ OnlyI s t) ∧
    (∃ t, exec (.ldF x) s = .next t ∧ t.i.toNat = (s.readV x).toNat * 5 ∧ OnlyI s t)

/-- R165 in range (the range check is the spec's decision D2): the three digits of V[X] at I, I + 1,
I + 2, and no other byte of memory. Memory is in canonical form, which every action keeps
(InvariantKeptByStep, InvariantKeptByHost). -/
def Obligations.DecimalDigitsStored : Prop :=
  ∀ (x : Reg) (s : State), s.mem.wf = true → s.i.toNat + 2 ≤ 4095 →
    ∃ t, exec (.ldB x) s = .next t ∧
      (t.mem.read s.i.toNat).toNat = (s.readV x).toNat / 100 ∧
      (t.mem.read (s.i.toNat + 1)).toNat = (s.readV x).toNat / 10 % 10 ∧
      (t.mem.read (s.i.toNat + 2)).toNat = (s.readV x).toNat % 10 ∧
      OnlyMem s.i.toNat 3 s t

/-- R166 in range (the range check is the spec's decision D2, I unchanged D23): V[0]..V[X] at I..I + X,
and no other byte of memory. -/
def Obligations.RegistersStored : Prop :=
  ∀ (x : Reg) (s : State), s.mem.wf = true → s.i.toNat + x.val ≤ 4095 →
    ∃ t, exec (.stRegs x) s = .next t ∧
      (∀ r : Reg, r ≤ x → t.mem.read (s.i.toNat + r.val) = s.readV r) ∧
      OnlyMem s.i.toNat (x.val + 1) s t

/-- R167 in range (the range check is the spec's decision D2, I unchanged D23): V[0]..V[X] from
I..I + X, the other registers and everything else unchanged. -/
def Obligations.RegistersLoaded : Prop :=
  ∀ (x : Reg) (s : State), s.i.toNat + x.val ≤ 4095 →
    ∃ t, exec (.ldRegs x) s = .next t ∧
      (∀ r : Reg, r ≤ x → t.readV r = s.mem.read (s.i.toNat + r.val)) ∧
      (∀ r : Reg, x < r → t.readV r = s.readV r) ∧ t = { s with v := t.v }

/-- R72, R227 (the spec's decisions D1 to D3, D8): the four instructions that access memory through I
fault when the last byte is above 4095, with no other effect. -/
def Obligations.DataRangeFaults : Prop :=
  ∀ (x y : Reg) (n : Nibble) (s : State),
    (s.i.toNat + 2 > 4095 → exec (.ldB x) s = .next (faultedState s .addressRange)) ∧
    (s.i.toNat + x.val > 4095 →
      exec (.stRegs x) s = .next (faultedState s .addressRange) ∧
      exec (.ldRegs x) s = .next (faultedState s .addressRange)) ∧
    (1 ≤ n.toNat → s.i.toNat + n.toNat - 1 > 4095 →
      exec (.drw x y n) s = .next (faultedState s .addressRange))

/-- R164, for any value of the parameter FONT (the spec's decision D13, this model's entry 3): with the
font not overwritten, FX29 on a glyph number and then F465 loads V0..V4 with the five bytes of that
glyph. -/
def Obligations.FontRoundTrip : Prop :=
  ∀ (font : Config.Font) (x : Reg) (s : State), (s.readV x).toNat ≤ 15 →
    (∀ a, a < 80 → some (s.mem.read a) = font[a]?) →
    ∃ t u, exec (.ldF x) s = .next t ∧ exec (.ldRegs 4) t = .next u ∧
      ∀ r : Reg, r ≤ 4 → some (u.readV r) = font[5 * (s.readV x).toNat + r.val]?

/-- R76: a store into the instruction stream is what the next fetch reads: two neighbouring registers
that FX55 stores at PC and PC + 1 are the next instruction word. -/
def Obligations.StoreIsSeenByNextFetch : Prop :=
  ∀ (x r : Reg) (s : State), s.mem.wf = true → s.i.toNat + x.val ≤ 4095 → r < x →
    s.pc.toNat = s.i.toNat + r.val →
    ∃ t, exec (.stRegs x) s = .next t ∧
      t.fetch = some (wordOfBytes (s.readV r) (s.readV (r + 1)))

/-! ## Display -/

/-- R181: 00E0, and no other word, turns every pixel off and sets DIRTY, also when the display is
blank. -/
def Obligations.ClearBlanksAndMarksDirty : Prop :=
  (∀ op : Word, decodeWord op = .cls ↔ op = 0x00E0) ∧
  ∀ s : State, ∃ t, exec .cls s = .next t ∧
    (∀ y x, y < 32 → x < 64 → pixel t.fb y x = false) ∧ t.dirty = true ∧
    t = { s with fb := t.fb, dirty := t.dirty }

/-- R182 in range (details are the spec's decision D8): the pixel loops XOR exactly the sprite bits that
fall on the display, VF is 1 when one of them meets a lit pixel and else 0, DIRTY is set, and nothing
else changes. The first row and column come from V[Y] and V[X] as they were before. -/
def Obligations.SpriteIsXoredAndClipped : Prop :=
  ∀ (x y : Reg) (n : Nibble) (s : State) (rows : List Byte) (x0 y0 : Nat),
    n.toNat = 0 ∨ s.i.toNat + n.toNat - 1 ≤ 4095 →
    rows = (List.range n.toNat).map (fun k => s.mem.read (s.i.toNat + k)) →
    x0 = (s.readV x).toNat % 64 → y0 = (s.readV y).toNat % 32 →
    ∃ t, exec (.drw x y n) s = .next t ∧
      (∀ r c, r < 32 → c < 64 → pixel t.fb r c = (pixel s.fb r c ^^ spriteBit rows y0 x0 r c)) ∧
      ((∃ r c, r < 32 ∧ c < 64 ∧ spriteBit rows y0 x0 r c = true ∧ pixel s.fb r c = true) →
        t.readV regF = 1) ∧
      ((∀ r c, r < 32 → c < 64 → spriteBit rows y0 x0 r c = true → pixel s.fb r c = false) →
        t.readV regF = 0) ∧
      (∀ r, r ≠ regF → t.readV r = s.readV r) ∧ t.dirty = true ∧
      t = { s with v := t.v, fb := t.fb, dirty := t.dirty }

/-- From the pseudocode of R182: the same sprite drawn twice at the same place restores the framebuffer
(corner case (e)), and VF is 1 after the second draw exactly when a set sprite bit that is not clipped
fell on a pixel that was dark before the first. Corner case (e) says "if the sprite has any unclipped 1
bit", which the pseudocode gives only where such a pixel was dark (this model's entry 14). -/
def Obligations.DrawingTwiceRestores : Prop :=
  ∀ (x y : Reg) (n : Nibble) (s : State) (rows : List Byte), x ≠ regF → y ≠ regF →
    n.toNat = 0 ∨ s.i.toNat + n.toNat - 1 ≤ 4095 →
    rows = (List.range n.toNat).map (fun k => s.mem.read (s.i.toNat + k)) →
    ∃ t u, exec (.drw x y n) s = .next t ∧ exec (.drw x y n) t = .next u ∧ u.fb = s.fb ∧
      (u.readV regF = 1 ↔ ∃ r c, r < 32 ∧ c < 64 ∧ pixel s.fb r c = false ∧
        spriteBit rows ((s.readV y).toNat % 32) ((s.readV x).toNat % 64) r c = true)

/-! ## Keys and timers -/

/-- R191, R192 with V[X] a key number: the skips on a key. -/
def Obligations.SkipsOnKey : Prop :=
  ∀ (x : Reg) (k : Key) (s : State), (s.readV x).toNat = k.val →
    (∃ t, exec (.skp x) s = .next t ∧
      t.pc.toNat = skipTarget (s.keys[k.val]? = some true) s.pc ∧ OnlyPc s t) ∧
    (∃ t, exec (.sknp x) s = .next t ∧
      t.pc.toNat = skipTarget (s.keys[k.val]? = some false) s.pc ∧ OnlyPc s t)

/-- R193, R228 (the spec's decisions D1, D3, D9): a key number above 15 faults, and is not masked. -/
def Obligations.KeyIndexFaults : Prop :=
  ∀ (x : Reg) (s : State), (s.readV x).toNat > 15 →
    exec (.skp x) s = .next (faultedState s .keyIndex) ∧
    exec (.sknp x) s = .next (faultedState s .keyIndex)

/-- R194 with no key captured (the spec's decision D10): FX0A captures the smallest pressed key, if any,
and stalls, PC two back. -/
def Obligations.KeyWaitCapturesAndStalls : Prop :=
  ∀ (x : Reg) (s : State), s.capturedKey = none →
    ∃ t, exec (.ldVxK x) s = .next t ∧
      (∀ k : Key, s.keys[k.val]? = some true → (∀ j : Key, j < k → s.keys[j.val]? = some false) →
        t.capturedKey = some k) ∧
      ((∀ k : Key, s.keys[k.val]? = some false) → t.capturedKey = none) ∧
      t.awaitingKey = true ∧ t.pc.toNat = (s.pc.toNat + 65534) % 65536 ∧
      t = { s with pc := t.pc, awaitingKey := t.awaitingKey, capturedKey := t.capturedKey }

/-- R194 with a key captured (the spec's decision D10): FX0A stalls while that key is down and completes
when it is up, whatever the other keys do. -/
def Obligations.KeyWaitCompletesOnRelease : Prop :=
  ∀ (x : Reg) (k : Key) (s : State), s.capturedKey = some k →
    (s.keys[k.val]? = some true → ∃ t, exec (.ldVxK x) s = .next t ∧ t.awaitingKey = true ∧
      t.pc.toNat = (s.pc.toNat + 65534) % 65536 ∧
      t = { s with pc := t.pc, awaitingKey := t.awaitingKey }) ∧
    (s.keys[k.val]? = some false → ∃ t, exec (.ldVxK x) s = .next t ∧
      (t.readV x).toNat = k.val ∧ (∀ r, r ≠ x → t.readV r = s.readV r) ∧
      t.capturedKey = none ∧ t.awaitingKey = false ∧
      t = { s with v := t.v, awaitingKey := t.awaitingKey, capturedKey := t.capturedKey })

/-- R198, scenario E3: with no key down and none captured, any number of steps at an FX0A leaves
everything as it is but AWAITING_KEY, PC at the FX0A. -/
def Obligations.KeyWaitRetriesWithoutKey : Prop :=
  ∀ (n : Nat) (x : Reg) (s : State), s.runState = .running → s.fault = .none →
    s.fetch = some (encode (.ldVxK x)) → s.capturedKey = none →
    (∀ k : Key, s.keys[k.val]? = some false) →
    Host.Core.run core (n + 1) s = .next { s with awaitingKey := true }

/-- R195, R196 and the effect of FX18 (R197): FX07 reads DT, FX15 writes DT, FX18 writes ST and with it
the output sound_active. -/
def Obligations.TimerReadsAndWrites : Prop :=
  ∀ (x : Reg) (s : State),
    (∃ t, exec (.ldVxDt x) s = .next t ∧ t.readV x = s.dt ∧ OnlyV x s t) ∧
    (∃ t, exec (.ldDtVx x) s = .next t ∧ t.dt = s.readV x ∧ t = { s with dt := t.dt }) ∧
    (∃ t, exec (.ldStVx x) s = .next t ∧ t.st = s.readV x ∧ t = { s with st := t.st } ∧
      (t.soundActive = true ↔ (s.readV x).toNat > 0))

/-! ## Unrecognized words -/

/-- R211: every word that no row of the selection table matches is a no-op: its effect is none, and the
step of it changes PC alone, to A + 2. -/
def Obligations.UnrecognizedWordOnlyAdvancesPc : Prop :=
  (∀ (op : Word) (s : State), exec (.nop op) s = .next s) ∧
  ∀ (op : Word) (s : State), (∀ r ∈ opcodeTable, r.selects op = false) →
    s.runState = .running → s.fault = .none → s.fetch = some op →
    ∃ t, step s = .next t ∧ t.pc.toNat = s.pc.toNat + 2 ∧ OnlyPc s t

/-! ## Host events -/

/-- R236 (in any run state by the spec's decision D18): Tick lowers both timers by one, floored at 0. -/
def Obligations.TickLowersTimers : Prop :=
  ∀ (p : Params) (s t : State), t = hostEvent p .tick s →
    t.dt.toNat = s.dt.toNat - 1 ∧ t.st.toNat = s.st.toNat - 1 ∧ t = { s with dt := t.dt, st := t.st }

/-- R238 and the effect of ClearDirty (R240): RefreshKeys overwrites the latch and ClearDirty clears
DIRTY; nothing else changes. -/
def Obligations.RefreshKeysAndClearDirty : Prop :=
  ∀ (p : Params) (k : Vector Bool 16) (s : State),
    hostEvent p (.refreshKeys k) s = { s with keys := k } ∧
    hostEvent p .clearDirty s = { s with dirty := false }

/-- R242, R245 (the spec's decision D19; that a step requested then answers the same state is this
model's entry 1, from KT18 and KT19): SetRunState writes RUN_STATE only; a paused Machine stands
still and resumes with the step it would have taken; a faulted one does not resume. -/
def Obligations.PauseHoldsAndFaultCannotResume : Prop :=
  (∀ (p : Params) (r : RunState) (s : State),
    hostEvent p (.setRunState r) s = { s with runState := r }) ∧
  (∀ (p : Params) (s : State), s.runState = .running →
    step (hostEvent p (.setRunState .paused) s) = .next (hostEvent p (.setRunState .paused) s) ∧
    step (hostEvent p (.setRunState .running) (hostEvent p (.setRunState .paused) s)) = step s) ∧
  (∀ (p : Params) (r : RunState) (s : State), s.fault ≠ .none →
    step (hostEvent p (.setRunState r) s) = .next (hostEvent p (.setRunState r) s))

/-- R261, R66, for any value of the parameter FONT (contents and FAULT are the spec's decisions D1, D12,
D13, D17): a ROM of 1 to 3584 bytes is copied to 0x200 over font and zeros and the Machine runs; any
other length leaves font and zeros, ROM_SIZE and QUIT. Every other element of the spec's state is at
its reset value, whatever the state was before (R260). The model's own field draws is not: it is kept,
the DESIGN CHOICE of this model's entry 4. -/
def Obligations.ResetLoadsOrRejects : Prop :=
  ∀ (p : Params) (rom : List Byte) (s t : State), t = hostEvent p (.reset rom) s →
    t = { State.reset with mem := t.mem, fault := t.fault, runState := t.runState,
                           draws := s.draws } ∧
    t.mem.wf = true ∧ (∀ a, a < 80 → some (t.mem.read a) = p.font[a]?) ∧
    (∀ a, 80 ≤ a → a < 0x200 → t.mem.read a = 0) ∧
    (1 ≤ rom.length → rom.length ≤ 3584 → t.fault = .none ∧ t.runState = .running ∧
      (∀ k, k < rom.length → some (t.mem.read (0x200 + k)) = rom[k]?) ∧
      (∀ a, 0x200 + rom.length ≤ a → a < 4096 → t.mem.read a = 0)) ∧
    (rom.length = 0 ∨ 3584 < rom.length → t.fault = .romSize ∧ t.runState = .quit ∧
      (∀ a, 0x200 ≤ a → a < 4096 → t.mem.read a = 0))

/-- R263: the boundary lengths of a ROM: 3584 succeeds and fills 0x200..0xFFF, 3585 fails, 1 succeeds, 0
fails. -/
def Obligations.RomLengthBoundary : Prop :=
  ∀ (p : Params) (rom : List Byte) (s t : State), t = hostEvent p (.reset rom) s →
    (rom.length = 3584 → t.fault = .none ∧
      ∀ a, 0x200 ≤ a → a ≤ 0xFFF → some (t.mem.read a) = rom[a - 0x200]?) ∧
    (rom.length = 3585 → t.fault = .romSize) ∧
    (rom.length = 1 → t.fault = .none) ∧ (rom.length = 0 → t.fault = .romSize)

/-- R262 (the values are the spec's decision D12, this model's entry 5; `draws` is this model's own
field, entry 4, and nothing is said of it): the reset values, FONT being the default (R66, entry 3). -/
def Obligations.ResetValues : Prop :=
  (∀ r : Reg, State.reset.readV r = 0) ∧ State.reset.i = 0 ∧ State.reset.pc = 0x0200 ∧
  (∀ k : Fin 12, State.reset.stack[k.val]? = some 0) ∧ State.reset.sp.val = 0 ∧
  State.reset.dt = 0 ∧ State.reset.st = 0 ∧ State.reset.soundActive = false ∧
  (∀ y x, pixel State.reset.fb y x = false) ∧ State.reset.dirty = false ∧
  (∀ k : Key, State.reset.keys[k.val]? = some false) ∧ State.reset.awaitingKey = false ∧
  State.reset.capturedKey = none ∧ State.reset.runState = .running ∧ State.reset.fault = .none ∧
  (∀ a, a < 80 → some (State.reset.mem.read a) = defaultFont[a]?) ∧
  (∀ a, 80 ≤ a → State.reset.mem.read a = 0)

/-- This model's entry 2 (R261): up to the model's own field draws, the state called reset is the one a
Reset with the default FONT and a ROM of zeros leaves, whatever its legal length. Reset keeps draws,
the DESIGN CHOICE of this model's entry 4. -/
def Obligations.ResetStateIsAZeroRom : Prop :=
  ∀ (p : Params) (n : Nat) (s : State), p.font = defaultFont → 1 ≤ n → n ≤ 3584 →
    hostEvent p (.reset (List.replicate n 0)) s = { State.reset with draws := s.draws }

/-- R243, R244: one iteration of the reference schedule, with any number of steps, always completes,
leaves the latch at the vector the host gave and leaves DIRTY cleared. A step of it that is not enabled
answers the same state by this model's entry 1, a fault by entry 6. -/
def Obligations.OuterIterationCompletes : Prop :=
  ∀ (p : Params) (k : Vector Bool 16) (s : State),
    ∃ t, outerIteration p k s = .next t ∧ t.keys = k ∧ t.dirty = false

/-! ## The whole machine -/

/-- Every step keeps the invariant: canonical memory inside the address space (R60), and the key-wait
fields in agreement with each other and with the word at PC (R39). -/
def Obligations.InvariantKeptByStep : Prop :=
  ∀ s t : State, Inv s → step s = .next t → Inv t

/-- Every host event keeps the invariant. -/
def Obligations.InvariantKeptByHost : Prop :=
  ∀ (p : Params) (e : HostEvent) (s : State), Inv s → Inv (hostEvent p e s)

/-- The invariant holds at reset. -/
def Obligations.InvariantAtReset : Prop := Inv State.reset

/-- R222, R223, R230 (the causes are the spec's decisions D1 to D3, D8, D9): an instruction faults
exactly where the table of causes says, the fault writes FAULT and RUN_STATE and nothing else, and an
instruction that does not fault leaves both alone (R213). -/
def Obligations.FaultsAreExactlyTheListed : Prop :=
  ∀ (i : Instr) (s : State),
    (∀ c, faultOf i s = some c → exec i s = .next (faultedState s c)) ∧
    (faultOf i s = none → ∃ t, exec i s = .next t ∧ t.fault = s.fault ∧ t.runState = s.runState)

/-- A safe step keeps the Machine running (R221, R223). -/
def Obligations.SafeStepStaysEnabled : Prop :=
  ∀ s : State, SafeStep s → ∃ t, step s = .next t ∧ t.enabled = true

/-- R233, R41: once FAULT is not NONE, no actions but a reset change it, and none but the host's own
fields change. That a step requested then answers the same state is this model's entry 1. -/
def Obligations.FaultIsStickyUntilReset : Prop :=
  ∀ (p : Params) (as : List Action) (s t : State), s.fault ≠ .none → (∀ rom, Action.host (.reset rom) ∉ as) →
    runActions p as s = .next t → OnlyHostFields s t

/-- R25, R30, R31, R33, R35 to R38, R41, R42, R213, R244: I, the timers, the stack and SP, FB and DIRTY,
the key-wait fields, memory, FAULT and RUN_STATE are each changed only by the instructions the spec
lists for it, and KEYS by none. The registers V and PC have statements of their own
(RegistersChangeOnlyAsDestination, OtherInstructionsLeavePc). The last clause is about the model's own
field draws (DESIGN CHOICE, this model's entry 4), not about state of the spec. -/
def Obligations.OnlyListedInstructionsWrite : Prop :=
  ∀ (i : Instr) (s t : State), exec i s = .next t →
    t.keys = s.keys ∧
    (t.i ≠ s.i → ∃ x nnn, i = .ldI nnn ∨ i = .addI x ∨ i = .ldF x) ∧
    (t.dt ≠ s.dt → ∃ x, i = .ldDtVx x) ∧ (t.st ≠ s.st → ∃ x, i = .ldStVx x) ∧
    (t.stack ≠ s.stack → ∃ nnn, i = .call nnn) ∧
    (t.sp ≠ s.sp → i = .ret ∨ ∃ nnn, i = .call nnn) ∧
    (t.fb ≠ s.fb ∨ t.dirty ≠ s.dirty → i = .cls ∨ ∃ x y n, i = .drw x y n) ∧
    (t.awaitingKey ≠ s.awaitingKey ∨ t.capturedKey ≠ s.capturedKey → ∃ x, i = .ldVxK x) ∧
    (t.mem ≠ s.mem → ∃ x, i = .ldB x ∨ i = .stRegs x) ∧
    (t.fault ≠ s.fault ∨ t.runState ≠ s.runState → faultOf i s ≠ none) ∧
    (t.draws ≠ s.draws → ∃ x nn, i = .rnd x nn)

/-- R23, R120: a general register changes only as a destination the instruction names, or as VF by one
of the six instructions that write it as a flag. -/
def Obligations.RegistersChangeOnlyAsDestination : Prop :=
  ∀ (i : Instr) (s t : State) (r : Reg), exec i s = .next t → destReg i r = false →
    (r = regF → writesFlag i = false) → t.readV r = s.readV r

/-- R27: an instruction that is none of the jumps, the call, the return, the skips and the key wait
leaves PC at A + 2. -/
def Obligations.OtherInstructionsLeavePc : Prop :=
  ∀ (i : Instr) (s t : State), exec i s = .next t → t.pc ≠ s.pc →
    i = .ret ∨ (∃ nnn, i = .jp nnn ∨ i = .call nnn ∨ i = .jpV0 nnn) ∨
    (∃ x nn, i = .seImm x nn ∨ i = .sneImm x nn) ∨ (∃ x y, i = .seReg x y ∨ i = .sneReg x y) ∨
    (∃ x, i = .skp x ∨ i = .sknp x ∨ i = .ldVxK x)

/-- R33, R36, R231: no instruction reads ST or DIRTY: other values of the two change nothing but
themselves. -/
def Obligations.SoundTimerAndDirtyAreNeverRead : Prop :=
  ∀ (i : Instr) (s t : State) (b : Byte) (d : Bool), exec i s = .next t →
    ∃ u, exec i { s with st := b, dirty := d } = .next u ∧
      u = { t with st := u.st, dirty := u.dirty }

/-- R37, R190: the latch is read by EX9E, EXA1 and FX0A only: under any other instruction another latch
changes nothing but itself. -/
def Obligations.LatchReadOnlyByKeyInstructions : Prop :=
  ∀ (i : Instr) (s t : State) (k : Vector Bool 16), readsKeys i = false → exec i s = .next t →
    exec i { s with keys := k } = .next { t with keys := k }
end

