-- ==== Sys2Proof/Laws/Decode.lean ====
section
/-! SUPPORT. The fields of a word put together from fields are those fields, a word is put together from
its own fields, and a word is its bytes. -/

namespace Sys2Proof

/-! Slices of a concatenation, at any widths -/

theorem extract_append_left {a b : Nat} (f : BitVec a) (g : BitVec b) :
    (f ++ g).extractLsb' b a = f := by
  ext i hi
  simp [BitVec.getLsbD_append, BitVec.getLsbD_eq_getElem hi]

theorem extract_append_right {a b : Nat} (f : BitVec a) (g : BitVec b) (s n : Nat) (h : s + n ≤ b) :
    (f ++ g).extractLsb' s n = g.extractLsb' s n := by
  ext i hi
  have : s + i < b := by omega
  simp [BitVec.getLsbD_append, this]

theorem extract_all {a : Nat} (f : BitVec a) : f.extractLsb' 0 a = f := by
  simp

theorem extract_join {w : Nat} (op : BitVec w) (s a b : Nat) :
    op.extractLsb' (s + b) a ++ op.extractLsb' s b = op.extractLsb' s (a + b) := by
  ext i hi
  simp only [BitVec.getElem_append, BitVec.getElem_extractLsb']
  split
  · rfl
  · next h =>
    have : s + b + (i - b) = s + i := by omega
    rw [this]

/-! F of each layout -/

@[simp] theorem fieldF_packNNN (f : Nibble) (a : Addr12) : fieldF (packNNN f a) = f :=
  extract_append_left f a

@[simp] theorem fieldF_packXNN (f : Nibble) (x : Reg) (nn : Byte) : fieldF (packXNN f x nn) = f :=
  extract_append_left f _

@[simp] theorem fieldF_packXYN (f : Nibble) (x y : Reg) (n : Nibble) :
    fieldF (packXYN f x y n) = f := extract_append_left f _

/-! The other fields -/

@[simp] theorem fieldNNN_packNNN (f : Nibble) (a : Addr12) : fieldNNN (packNNN f a) = a :=
  (extract_append_right f a 0 12 (by decide)).trans (extract_all a)

@[simp] theorem fieldX_packXNN (f : Nibble) (x : Reg) (nn : Byte) : fieldX (packXNN f x nn) = x :=
  congrArg BitVec.toFin ((extract_append_right f _ 8 4 (by decide)).trans
    (extract_append_left (BitVec.ofFin x : Nibble) nn))

@[simp] theorem fieldNN_packXNN (f : Nibble) (x : Reg) (nn : Byte) : fieldNN (packXNN f x nn) = nn :=
  ((extract_append_right f _ 0 8 (by decide)).trans
    (extract_append_right (BitVec.ofFin x : Nibble) nn 0 8 (by decide))).trans (extract_all nn)

@[simp] theorem fieldX_packXYN (f : Nibble) (x y : Reg) (n : Nibble) :
    fieldX (packXYN f x y n) = x :=
  congrArg BitVec.toFin ((extract_append_right f _ 8 4 (by decide)).trans
    (extract_append_left (BitVec.ofFin x : Nibble) ((BitVec.ofFin y : Nibble) ++ n : BitVec 8)))

@[simp] theorem fieldY_packXYN (f : Nibble) (x y : Reg) (n : Nibble) :
    fieldY (packXYN f x y n) = y :=
  congrArg BitVec.toFin ((extract_append_right f _ 4 4 (by decide)).trans
    ((extract_append_right (BitVec.ofFin x : Nibble) ((BitVec.ofFin y : Nibble) ++ n : BitVec 8) 4 4
      (by decide)).trans (extract_append_left (BitVec.ofFin y : Nibble) n)))

@[simp] theorem fieldN_packXYN (f : Nibble) (x y : Reg) (n : Nibble) :
    fieldN (packXYN f x y n) = n :=
  (extract_append_right f _ 0 4 (by decide)).trans
    ((extract_append_right (BitVec.ofFin x : Nibble) ((BitVec.ofFin y : Nibble) ++ n : BitVec 8) 0 4
      (by decide)).trans
    ((extract_append_right (BitVec.ofFin y : Nibble) n 0 4 (by decide)).trans (extract_all n)))

/-! A word is put together from its own fields -/

theorem packNNN_fields (op : Word) : packNNN (fieldF op) (fieldNNN op) = op :=
  (extract_join op 0 4 12).trans (extract_all op)

theorem fieldNNN_eq (op : Word) :
    ((BitVec.ofFin (fieldX op) : Nibble) ++ fieldNN op : BitVec 12) = fieldNNN op :=
  extract_join op 0 4 8

theorem fieldNN_eq (op : Word) :
    ((BitVec.ofFin (fieldY op) : Nibble) ++ fieldN op : BitVec 8) = fieldNN op :=
  extract_join op 0 4 4

theorem packXNN_fields (op : Word) : packXNN (fieldF op) (fieldX op) (fieldNN op) = op := by
  unfold packXNN
  rw [fieldNNN_eq]
  exact packNNN_fields op

theorem packXYN_fields (op : Word) :
    packXYN (fieldF op) (fieldX op) (fieldY op) (fieldN op) = op := by
  unfold packXYN
  rw [fieldNN_eq, fieldNNN_eq]
  exact packNNN_fields op

/-! The masks of the selection table keep whole fields (R96) -/

theorem and_F000 (op : Word) : op &&& 0xF000 = packNNN (fieldF op) 0 := by
  have h : packNNN (fieldF (op &&& 0xF000)) (fieldNNN (op &&& 0xF000)) = op &&& 0xF000 :=
    packNNN_fields _
  have h1 : fieldF (op &&& 0xF000) = fieldF op :=
    (BitVec.extractLsb'_and (x := op) (y := 0xF000) (start := 12) (len := 4)).trans
      (BitVec.and_allOnes (x := fieldF op))
  have h2 : fieldNNN (op &&& 0xF000) = 0 :=
    (BitVec.extractLsb'_and (x := op) (y := 0xF000) (start := 0) (len := 12)).trans
      (BitVec.and_zero (x := fieldNNN op))
  rw [← h, h1, h2]

theorem and_F0FF (op : Word) : op &&& 0xF0FF = packXNN (fieldF op) 0 (fieldNN op) := by
  have h : packXNN (fieldF (op &&& 0xF0FF)) (fieldX (op &&& 0xF0FF)) (fieldNN (op &&& 0xF0FF)) =
      op &&& 0xF0FF := packXNN_fields _
  have h1 : fieldF (op &&& 0xF0FF) = fieldF op :=
    (BitVec.extractLsb'_and (x := op) (y := 0xF0FF) (start := 12) (len := 4)).trans
      (BitVec.and_allOnes (x := fieldF op))
  have h2 : fieldX (op &&& 0xF0FF) = 0 :=
    congrArg BitVec.toFin ((BitVec.extractLsb'_and (x := op) (y := 0xF0FF) (start := 8) (len := 4)).trans
      (BitVec.and_zero (x := op.extractLsb' 8 4)))
  have h3 : fieldNN (op &&& 0xF0FF) = fieldNN op :=
    (BitVec.extractLsb'_and (x := op) (y := 0xF0FF) (start := 0) (len := 8)).trans
      (BitVec.and_allOnes (x := fieldNN op))
  rw [← h, h1, h2, h3]

theorem and_F00F (op : Word) : op &&& 0xF00F = packXYN (fieldF op) 0 0 (fieldN op) := by
  have h : packXYN (fieldF (op &&& 0xF00F)) (fieldX (op &&& 0xF00F)) (fieldY (op &&& 0xF00F))
      (fieldN (op &&& 0xF00F)) = op &&& 0xF00F := packXYN_fields _
  have h1 : fieldF (op &&& 0xF00F) = fieldF op :=
    (BitVec.extractLsb'_and (x := op) (y := 0xF00F) (start := 12) (len := 4)).trans
      (BitVec.and_allOnes (x := fieldF op))
  have h2 : fieldX (op &&& 0xF00F) = 0 :=
    congrArg BitVec.toFin ((BitVec.extractLsb'_and (x := op) (y := 0xF00F) (start := 8) (len := 4)).trans
      (BitVec.and_zero (x := op.extractLsb' 8 4)))
  have h3 : fieldY (op &&& 0xF00F) = 0 :=
    congrArg BitVec.toFin ((BitVec.extractLsb'_and (x := op) (y := 0xF00F) (start := 4) (len := 4)).trans
      (BitVec.and_zero (x := op.extractLsb' 4 4)))
  have h4 : fieldN (op &&& 0xF00F) = fieldN op :=
    (BitVec.extractLsb'_and (x := op) (y := 0xF00F) (start := 0) (len := 4)).trans
      (BitVec.and_allOnes (x := fieldN op))
  rw [← h, h1, h2, h3, h4]

theorem and_FFFF (op : Word) : op &&& 0xFFFF = op := BitVec.and_allOnes

/-! A word and its bytes -/

@[simp] theorem wordOfBytes_hi_lo (op : Word) : wordOfBytes (wordHi op) (wordLo op) = op :=
  (extract_join op 0 8 8).trans (extract_all op)

@[simp] theorem wordHi_wordOfBytes (hi lo : Byte) : wordHi (wordOfBytes hi lo) = hi :=
  extract_append_left hi lo

@[simp] theorem wordLo_wordOfBytes (hi lo : Byte) : wordLo (wordOfBytes hi lo) = lo :=
  (extract_append_right hi lo 0 8 (by decide)).trans (extract_all lo)

theorem decode_two (hi lo : Byte) (rest : List Byte) :
    decode (hi :: lo :: rest) = .ok (decodeWord (wordOfBytes hi lo), rest) := rfl

theorem decodeTableWord_eq (nbits w : Nat) :
    decodeTableWord nbits w = some (decodeWord (tableWord nbits w)) := by
  simp [decodeTableWord, decode_two]

/-! A packed word says its fields; a mask of the selection table asks for fields -/

theorem packNNN_inj (f g : Nibble) (a b : Addr12) :
    packNNN f a = packNNN g b ↔ f = g ∧ a = b := by
  constructor
  · intro h
    exact ⟨by simpa using congrArg fieldF h, by simpa using congrArg fieldNNN h⟩
  · rintro ⟨rfl, rfl⟩; rfl

theorem packXNN_inj (f g : Nibble) (x y : Reg) (a b : Byte) :
    packXNN f x a = packXNN g y b ↔ f = g ∧ x = y ∧ a = b := by
  constructor
  · intro h
    exact ⟨by simpa using congrArg fieldF h, by simpa using congrArg fieldX h,
      by simpa using congrArg fieldNN h⟩
  · rintro ⟨rfl, rfl, rfl⟩; rfl

theorem packXYN_inj (f g : Nibble) (x y x' y' : Reg) (a b : Nibble) :
    packXYN f x y a = packXYN g x' y' b ↔ f = g ∧ x = x' ∧ y = y' ∧ a = b := by
  constructor
  · intro h
    exact ⟨by simpa using congrArg fieldF h, by simpa using congrArg fieldX h,
      by simpa using congrArg fieldY h, by simpa using congrArg fieldN h⟩
  · rintro ⟨rfl, rfl, rfl, rfl⟩; rfl

theorem selects_F000_iff (bits op : Word) :
    Row.selects ⟨0xF000, bits⟩ op = decide (packNNN (fieldF op) 0 = bits) := by
  unfold Row.selects; rw [and_F000]; rfl

theorem selects_F00F_iff (bits op : Word) :
    Row.selects ⟨0xF00F, bits⟩ op = decide (packXYN (fieldF op) 0 0 (fieldN op) = bits) := by
  unfold Row.selects; rw [and_F00F]; rfl

theorem selects_F0FF_iff (bits op : Word) :
    Row.selects ⟨0xF0FF, bits⟩ op = decide (packXNN (fieldF op) 0 (fieldNN op) = bits) := by
  unfold Row.selects; rw [and_F0FF]; rfl

theorem selects_FFFF_iff (bits op : Word) : Row.selects ⟨0xFFFF, bits⟩ op = decide (op = bits) := by
  unfold Row.selects; rw [and_FFFF]; rfl

theorem unrecognized_iff (op : Word) :
    unrecognized op = true ↔ ∀ r ∈ opcodeTable, r.selects op = false := by
  simp [unrecognized]

end Sys2Proof
end

