-- ==== Sys2Proof/Laws/Display.lean ====
section
/-! SUPPORT. What drawing does to each pixel, said once: a sprite bit that is not clipped flips its
pixel, and a hit is a set bit on a lit pixel. -/

namespace Sys2Proof.Machine

open Sys2Proof.Safety

theorem pixel_flipPixel (fb : FrameBuffer) (y x y' x' : Nat) :
    pixel (flipPixel fb y x) y' x' =
      (pixel fb y' x' ^^ decide (y' = y ∧ x' = x ∧ y < Config.displayHeight ∧ x < Config.displayWidth)) := by
  unfold pixel flipPixel
  by_cases hb : y < Config.displayHeight ∧ x < Config.displayWidth
  · rw [dif_pos hb]
    by_cases hb' : y' < Config.displayHeight ∧ x' < Config.displayWidth
    · rw [dif_pos hb', dif_pos hb']
      by_cases hy : y' = y
      · subst hy
        by_cases hx : x' = x
        · subst hx; simp [hb.1, hb.2]
        · have hx' : x ≠ x' := fun e => hx e.symm
          simp [hx, Vector.getElem_set_ne, hx']
      · have hy' : y ≠ y' := fun e => hy e.symm
        simp [hy, Vector.getElem_set_ne, hy']
    · rw [dif_neg hb', dif_neg hb']
      have : ¬ (y' = y ∧ x' = x ∧ y < Config.displayHeight ∧ x < Config.displayWidth) := by
        rintro ⟨rfl, rfl, h1, h2⟩; exact hb' ⟨h1, h2⟩
      rw [decide_eq_false this]
      simp
  · rw [dif_neg hb]
    have : ¬ (y' = y ∧ x' = x ∧ y < Config.displayHeight ∧ x < Config.displayWidth) :=
      fun h => hb h.2.2
    simp [this]

@[simp] theorem pixel_blankFb (y x : Nat) : pixel blankFb y x = false := by
  unfold pixel blankFb
  split <;> simp

/-- Framebuffers whose pixels agree are equal. -/
theorem pixel_ext {f g : FrameBuffer}
    (h : ∀ y x, y < Config.displayHeight → x < Config.displayWidth → pixel f y x = pixel g y x) :
    f = g := by
  apply Vector.ext
  intro y hy
  apply Vector.ext
  intro x hx
  have := h y x hy hx
  simpa [pixel, hy, hx] using this

/-- One row: the bits from column `col` on that are not clipped flip their pixels. -/
theorem drawCols_pixel (c : Canvas) (y x0 : Nat) (b : Byte) (col left y' x' : Nat)
    (hy : y < Config.displayHeight) :
    pixel (c.drawCols y x0 b col left).fb y' x' =
      (pixel c.fb y' x' ^^ (decide (y' = y ∧ x0 + col ≤ x' ∧ x' < x0 + col + left ∧
        x' < Config.displayWidth) && b.getMsbD (x' - x0))) := by
  induction left generalizing c col with
  | zero =>
    have : ¬ (y' = y ∧ x0 + col ≤ x' ∧ x' < x0 + col + 0 ∧ x' < Config.displayWidth) := by omega
    rw [Canvas.drawCols, decide_eq_false this]
    simp
  | succ left ih =>
    rw [Canvas.drawCols]
    split
    · next hge =>
      have : ¬ (y' = y ∧ x0 + col ≤ x' ∧ x' < x0 + col + (left + 1) ∧ x' < Config.displayWidth) := by
        omega
      rw [decide_eq_false this]
      simp
    · next hlt =>
      rw [ih]
      have hplot : pixel (c.plot y (x0 + col) (b.getMsbD col)).fb y' x' =
          (pixel c.fb y' x' ^^ (decide (y' = y ∧ x' = x0 + col) && b.getMsbD col)) := by
        unfold Canvas.plot
        split
        · next hb =>
          have hx : x0 + col < Config.displayWidth := by omega
          rw [pixel_flipPixel]
          simp [hb, hy, hx]
        · next hb => simp [hb]
      rw [hplot]
      by_cases hyy : y' = y
      · by_cases hx : x' = x0 + col
        · have e1 : x' - x0 = col := by omega
          have h1 : ¬ (y' = y ∧ x0 + (col + 1) ≤ x' ∧ x' < x0 + (col + 1) + left ∧
              x' < Config.displayWidth) := by omega
          have h2 : (y' = y ∧ x0 + col ≤ x' ∧ x' < x0 + col + (left + 1) ∧
              x' < Config.displayWidth) := by omega
          have h3 : y' = y ∧ x' = x0 + col := ⟨hyy, hx⟩
          rw [decide_eq_false h1, decide_eq_true h2, decide_eq_true h3, e1]
          simp
        · have h3 : ¬ (y' = y ∧ x' = x0 + col) := fun h => hx h.2
          have h4 : (y' = y ∧ x0 + (col + 1) ≤ x' ∧ x' < x0 + (col + 1) + left ∧
              x' < Config.displayWidth) ↔
              (y' = y ∧ x0 + col ≤ x' ∧ x' < x0 + col + (left + 1) ∧ x' < Config.displayWidth) := by
            omega
          rw [decide_eq_false h3]
          simp only [h4, Bool.false_and, Bool.xor_false]
      · have h3 : ¬ (y' = y ∧ x' = x0 + col) := fun h => hyy h.1
        simp [hyy]

/-- One row: the hit so far, or a set bit that is not clipped on a lit pixel. -/
theorem drawCols_hit (c : Canvas) (y x0 : Nat) (b : Byte) (col left : Nat) :
    (c.drawCols y x0 b col left).hit = true ↔
      c.hit = true ∨ ∃ x, x0 + col ≤ x ∧ x < x0 + col + left ∧ x < Config.displayWidth ∧
        b.getMsbD (x - x0) = true ∧ pixel c.fb y x = true := by
  induction left generalizing c col with
  | zero =>
    simp only [Canvas.drawCols, Nat.add_zero, iff_self_or]
    rintro ⟨x, h1, h2, -⟩
    omega
  | succ left ih =>
    rw [Canvas.drawCols]
    split
    · next hge =>
      simp only [iff_self_or]
      rintro ⟨x, h1, h2, h3, -⟩
      omega
    · next hlt =>
      rw [ih]
      have hp : ∀ x, x0 + (col + 1) ≤ x →
          pixel (c.plot y (x0 + col) (b.getMsbD col)).fb y x = pixel c.fb y x := by
        intro x hx
        unfold Canvas.plot
        split
        · rw [pixel_flipPixel]
          have : ¬ (y = y ∧ x = x0 + col ∧ y < Config.displayHeight ∧
              x0 + col < Config.displayWidth) := by omega
          rw [decide_eq_false this]
          simp
        · rfl
      have hh : (c.plot y (x0 + col) (b.getMsbD col)).hit = true ↔
          c.hit = true ∨ (b.getMsbD col = true ∧ pixel c.fb y (x0 + col) = true) := by
        unfold Canvas.plot
        split
        · next hb => simp [hb]
        · next hb => simp [hb]
      rw [hh]
      constructor
      · rintro ((h | ⟨hb, hpx⟩) | ⟨x, h1, h2, h3, h4, h5⟩)
        · exact .inl h
        · refine .inr ⟨x0 + col, le_rfl, by omega, by omega, ?_, hpx⟩
          rw [Nat.add_sub_cancel_left]; exact hb
        · exact .inr ⟨x, by omega, by omega, h3, h4, by rw [hp x h1] at h5; exact h5⟩
      · rintro (h | ⟨x, h1, h2, h3, h4, h5⟩)
        · exact .inl (.inl h)
        · by_cases hx : x = x0 + col
          · subst hx
            rw [Nat.add_sub_cancel_left] at h4
            exact .inl (.inr ⟨h4, h5⟩)
          · exact .inr ⟨x, by omega, by omega, h3, h4, by rw [hp x (by omega)]; exact h5⟩

theorem spriteBit_cons (b : Byte) (bs : List Byte) (y0 x0 y x : Nat) :
    spriteBit (b :: bs) y0 x0 y x =
      ((decide (y = y0 ∧ x0 ≤ x ∧ x < x0 + 8) && b.getMsbD (x - x0)) ||
        spriteBit bs (y0 + 1) x0 y x) := by
  unfold spriteBit
  by_cases hx : x0 ≤ x ∧ x < x0 + 8
  · by_cases hy : y = y0
    · subst hy
      have : ¬ y + 1 ≤ y := by omega
      simp [hx.1, hx.2]
    · by_cases hlt : y0 ≤ y
      · have h1 : y0 + 1 ≤ y := by omega
        have h2 : y - y0 = (y - (y0 + 1)) + 1 := by omega
        simp [hx.1, hx.2, hy, hlt, h1, h2]
      · have h1 : ¬ y0 + 1 ≤ y := by omega
        simp [hy, hlt, h1]
  · by_cases h1 : x0 ≤ x
    · have h2 : ¬ x < x0 + 8 := fun h => hx ⟨h1, h⟩
      simp [h2]
    · simp [h1]

theorem spriteBit_nil (y0 x0 y x : Nat) : spriteBit [] y0 x0 y x = false := by
  simp [spriteBit]

theorem spriteBit_above {bs : List Byte} {y0 x0 y x : Nat} (h : y < y0) :
    spriteBit bs y0 x0 y x = false := by
  have : ¬ y0 ≤ y := by omega
  simp [spriteBit, this]

/-- The whole sprite: a pixel of the display is flipped exactly where a set sprite bit falls. -/
theorem drawRows_pixel (c : Canvas) (y0 x0 : Nat) (bs : List Byte) (y x : Nat)
    (hy : y < Config.displayHeight) (hx : x < Config.displayWidth) :
    pixel (c.drawRows y0 x0 bs).fb y x = (pixel c.fb y x ^^ spriteBit bs y0 x0 y x) := by
  induction bs generalizing c y0 with
  | nil => simp [Canvas.drawRows, spriteBit_nil]
  | cons b bs ih =>
    rw [Canvas.drawRows]
    split
    · next hge => rw [spriteBit_above (by omega)]; simp
    · next hlt =>
      rw [ih, drawCols_pixel _ _ _ _ _ _ _ _ (by omega), spriteBit_cons]
      by_cases hyy : y = y0
      · rw [spriteBit_above (bs := bs) (y0 := y0 + 1) (by omega)]
        simp [hyy, hx]
      · simp [hyy]

/-- The whole sprite: a hit is a set bit on a pixel of the display that was lit. -/
theorem drawRows_hit (c : Canvas) (y0 x0 : Nat) (bs : List Byte) :
    (c.drawRows y0 x0 bs).hit = true ↔
      c.hit = true ∨ ∃ y x, y < Config.displayHeight ∧ x < Config.displayWidth ∧
        spriteBit bs y0 x0 y x = true ∧ pixel c.fb y x = true := by
  induction bs generalizing c y0 with
  | nil => simp [Canvas.drawRows, spriteBit_nil]
  | cons b bs ih =>
    rw [Canvas.drawRows]
    split
    · next hge =>
      simp only [iff_self_or]
      rintro ⟨y, x, h1, h2, h3, -⟩
      rw [spriteBit_above (by omega)] at h3
      cases h3
    · next hlt =>
      have hy0 : y0 < Config.displayHeight := by omega
      rw [ih, drawCols_hit]
      have hp : ∀ y x, y ≠ y0 → pixel (c.drawCols y0 x0 b 0 8).fb y x = pixel c.fb y x := by
        intro y x hne
        rw [drawCols_pixel _ _ _ _ _ _ _ _ hy0]
        simp [hne]
      constructor
      · rintro ((h | ⟨x, h1, h2, h3, h4, h5⟩) | ⟨y, x, h1, h2, h3, h4⟩)
        · exact .inl h
        · refine .inr ⟨y0, x, hy0, h3, ?_, h5⟩
          rw [spriteBit_cons]
          have : x0 ≤ x ∧ x < x0 + 8 := by omega
          simp [this.1, this.2, h4]
        · refine .inr ⟨y, x, h1, h2, ?_, ?_⟩
          · rw [spriteBit_cons, h3, Bool.or_true]
          · rw [hp y x] at h4
            · exact h4
            · rintro rfl
              rw [spriteBit_above (by omega)] at h3
              cases h3
      · rintro (h | ⟨y, x, h1, h2, h3, h4⟩)
        · exact .inl (.inl h)
        · rw [spriteBit_cons, Bool.or_eq_true, Bool.and_eq_true, decide_eq_true_eq] at h3
          rcases h3 with ⟨⟨rfl, h5, h6⟩, h7⟩ | h3
          · exact .inl (.inr ⟨x, by omega, by omega, h2, h7, h4⟩)
          · refine .inr ⟨y, x, h1, h2, h3, ?_⟩
            rw [hp y x]
            · exact h4
            · rintro rfl
              rw [spriteBit_above (by omega)] at h3
              cases h3

end Sys2Proof.Machine
end

