-- ==== Sys2Proof/Laws/Memory.lean ====
section
/-! SUPPORT. The laws of memory: a read after a write, the canonical form kept by every memory
operation, and equal reads of canonical memories make equal data. -/

namespace Sys2Proof.Machine

theorem Memory.wfFrom_cons {lo a : Nat} {b : Byte} {m : Memory} :
    Memory.wfFrom lo ((a, b) :: m) = true ↔
      lo ≤ a ∧ a < 4096 ∧ b ≠ Memory.unlisted a ∧ Memory.wfFrom (a + 1) m = true := by
  simp [Memory.wfFrom, and_assoc]

theorem Memory.wfFrom_mono {lo lo' : Nat} {m : Memory} (h : Memory.wfFrom lo m = true) (hl : lo' ≤ lo) :
    Memory.wfFrom lo' m = true := by
  cases m with
  | nil => rfl
  | cons c m =>
    obtain ⟨a, b⟩ := c
    rw [Memory.wfFrom_cons] at h ⊢
    exact ⟨hl.trans h.1, h.2⟩

/-- Below the first listed address everything reads as unlisted. -/
theorem Memory.read_below {lo a : Nat} {m : Memory} (h : Memory.wfFrom lo m = true) (ha : a < lo) :
    Memory.read m a = Memory.unlisted a := by
  induction m generalizing lo with
  | nil => rfl
  | cons c m ih =>
    obtain ⟨c, d⟩ := c
    rw [Memory.wfFrom_cons] at h
    have hne : a ≠ c := by omega
    simp only [Memory.read, if_neg hne]
    exact ih h.2.2.2 (by omega)

@[simp] theorem Memory.read_nil (a : Nat) : Memory.read [] a = Memory.unlisted a := rfl

theorem Memory.read_write_self {lo a : Nat} {m : Memory} {b : Byte} (h : Memory.wfFrom lo m = true) :
    Memory.read (Memory.write m a b) a = b := by
  induction m generalizing lo with
  | nil => unfold Memory.write; split <;> simp_all [Memory.read]
  | cons c m ih =>
    obtain ⟨c, d⟩ := c
    rw [Memory.wfFrom_cons] at h
    unfold Memory.write
    split
    · next hlt =>
      split
      · next hb =>
        rw [hb]
        exact Memory.read_below (lo := c) (Memory.wfFrom_cons.2 ⟨le_rfl, h.2⟩) hlt
      · simp [Memory.read]
    · next hlt =>
      split
      · next heq =>
        split
        · next hb =>
          rw [hb]
          exact Memory.read_below h.2.2.2 (by omega)
        · simp [Memory.read]
      · next hne => simp only [Memory.read, if_neg hne]; exact ih h.2.2.2

theorem Memory.read_write_ne (m : Memory) {a c : Nat} (b : Byte) (h : c ≠ a) :
    Memory.read (Memory.write m a b) c = Memory.read m c := by
  induction m with
  | nil => unfold Memory.write; split <;> simp [Memory.read, h]
  | cons e m ih =>
    obtain ⟨e, d⟩ := e
    unfold Memory.write
    split
    · split <;> simp [Memory.read, h]
    · split
      · next heq => subst heq; split <;> simp [Memory.read, h]
      · simp only [Memory.read, ih]

/-- A write inside the address space keeps the canonical form. -/
theorem Memory.wfFrom_write {lo a : Nat} {m : Memory} {b : Byte} (h : Memory.wfFrom lo m = true)
    (hl : lo ≤ a) (ha : a < 4096) : Memory.wfFrom lo (Memory.write m a b) = true := by
  induction m generalizing lo with
  | nil =>
    unfold Memory.write
    split
    · rfl
    · next hb => exact Memory.wfFrom_cons.2 ⟨hl, ha, hb, rfl⟩
  | cons c m ih =>
    obtain ⟨c, d⟩ := c
    have h' := Memory.wfFrom_cons.1 h
    unfold Memory.write
    split
    · next hlt =>
      split
      · exact h
      · next hb => exact Memory.wfFrom_cons.2 ⟨hl, ha, hb, Memory.wfFrom_cons.2 ⟨hlt, h'.2⟩⟩
    · next hlt =>
      split
      · next heq =>
        split
        · exact Memory.wfFrom_mono h'.2.2.2 (by omega)
        · next hb =>
          subst heq
          exact Memory.wfFrom_cons.2 ⟨hl, ha, hb, h'.2.2.2⟩
      · next hne =>
        exact Memory.wfFrom_cons.2 ⟨h'.1, h'.2.1, h'.2.2.1, ih h'.2.2.2 (by omega)⟩

theorem Memory.wf_write {a : Nat} {m : Memory} {b : Byte} (h : m.wf = true) (ha : a < 4096) :
    (m.write a b).wf = true := Memory.wfFrom_write h (Nat.zero_le a) ha

theorem Memory.wf_writeAll {m : Memory} {a : Nat} {bs : List Byte} (h : m.wf = true)
    (ha : a + bs.length ≤ 4096) : (m.writeAll a bs).wf = true := by
  induction bs generalizing m a with
  | nil => exact h
  | cons b bs ih =>
    simp only [List.length_cons] at ha
    exact ih (Memory.wf_write h (by omega)) (by omega)

@[simp] theorem Memory.wf_nil : Memory.wf [] = true := rfl

/-- Outside the bytes stored, every address reads as before. -/
theorem Memory.read_writeAll_outside {m : Memory} {a c : Nat} {bs : List Byte}
    (h : c < a ∨ a + bs.length ≤ c) : (m.writeAll a bs).read c = m.read c := by
  induction bs generalizing m a with
  | nil => rfl
  | cons b bs ih =>
    simp only [List.length_cons] at h
    rw [Memory.writeAll, ih (by omega)]
    exact Memory.read_write_ne m b (by omega)

/-- The k-th byte stored is read back. -/
theorem Memory.read_writeAll_inside {m : Memory} {a k : Nat} {bs : List Byte} (h : m.wf = true)
    (ha : a + bs.length ≤ 4096) (hk : k < bs.length) :
    (m.writeAll a bs).read (a + k) = bs[k] := by
  induction bs generalizing m a k with
  | nil => simp at hk
  | cons b bs ih =>
    simp only [List.length_cons] at ha hk
    have hw : (m.write a b).wf = true := Memory.wf_write h (by omega)
    cases k with
    | zero =>
      rw [Memory.writeAll, Memory.read_writeAll_outside (Or.inl (by omega))]
      exact Memory.read_write_self h
    | succ k =>
      have := ih hw (a := a + 1) (k := k) (by omega) (by omega)
      rw [Memory.writeAll, List.getElem_cons_succ, ← this]
      congr 1
      omega

/-- Canonical memories that read alike are the same list. -/
theorem Memory.ext_wfFrom {lo : Nat} {m n : Memory} (hm : Memory.wfFrom lo m = true)
    (hn : Memory.wfFrom lo n = true) (h : ∀ a, Memory.read m a = Memory.read n a) : m = n := by
  induction m generalizing lo n with
  | nil =>
    cases n with
    | nil => rfl
    | cons c n =>
      obtain ⟨c, d⟩ := c
      have hc := Memory.wfFrom_cons.1 hn
      have := h c
      simp [Memory.read] at this
      exact absurd this.symm hc.2.2.1
  | cons c m ih =>
    obtain ⟨c, d⟩ := c
    have hc := Memory.wfFrom_cons.1 hm
    cases n with
    | nil =>
      have := h c
      simp [Memory.read] at this
      exact absurd this hc.2.2.1
    | cons e n =>
      obtain ⟨e, f⟩ := e
      have he := Memory.wfFrom_cons.1 hn
      have hce : c = e := by
        rcases Nat.lt_trichotomy c e with hlt | heq | hlt
        · have h1 := h c
          rw [Memory.read_below (lo := e) (m := (e, f) :: n)
            (Memory.wfFrom_cons.2 ⟨le_rfl, he.2⟩) hlt] at h1
          simp [Memory.read] at h1
          exact absurd h1 hc.2.2.1
        · exact heq
        · have h1 := h e
          rw [Memory.read_below (lo := c) (m := (c, d) :: m)
            (Memory.wfFrom_cons.2 ⟨le_rfl, hc.2⟩) hlt] at h1
          simp [Memory.read] at h1
          exact absurd h1.symm he.2.2.1
      subst hce
      have hdf : d = f := by have := h c; simpa [Memory.read] using this
      subst hdf
      have hmn : m = n := by
        refine ih hc.2.2.2 he.2.2.2 fun a => ?_
        by_cases hac : a = c
        · rw [Memory.read_below hc.2.2.2 (by omega), Memory.read_below he.2.2.2 (by omega)]
        · have := h a
          simpa [Memory.read, hac] using this
      rw [hmn]

theorem Memory.ext_wf {m n : Memory} (hm : m.wf = true) (hn : n.wf = true)
    (h : ∀ a, Memory.read m a = Memory.read n a) : m = n := Memory.ext_wfFrom hm hn h

end Sys2Proof.Machine
end

