-- ==== Sys2Proof/Laws/State.lean ====
section
/-! SUPPORT. The small lemmas of State: one per field per update, each true by rfl, and what reading a
register gives after an update, so that no later proof unfolds a record update. -/

namespace Sys2Proof.Machine

/-! setV -/

@[simp] theorem State.setV_v (s : State) (x : Reg) (b : Byte) : (s.setV x b).v = s.v.set x.val b := rfl
@[simp] theorem State.setV_i (s : State) (x : Reg) (b : Byte) : (s.setV x b).i = s.i := rfl
@[simp] theorem State.setV_pc (s : State) (x : Reg) (b : Byte) : (s.setV x b).pc = s.pc := rfl
@[simp] theorem State.setV_stack (s : State) (x : Reg) (b : Byte) : (s.setV x b).stack = s.stack := rfl
@[simp] theorem State.setV_sp (s : State) (x : Reg) (b : Byte) : (s.setV x b).sp = s.sp := rfl
@[simp] theorem State.setV_dt (s : State) (x : Reg) (b : Byte) : (s.setV x b).dt = s.dt := rfl
@[simp] theorem State.setV_st (s : State) (x : Reg) (b : Byte) : (s.setV x b).st = s.st := rfl
@[simp] theorem State.setV_fb (s : State) (x : Reg) (b : Byte) : (s.setV x b).fb = s.fb := rfl
@[simp] theorem State.setV_dirty (s : State) (x : Reg) (b : Byte) : (s.setV x b).dirty = s.dirty := rfl
@[simp] theorem State.setV_keys (s : State) (x : Reg) (b : Byte) : (s.setV x b).keys = s.keys := rfl
@[simp] theorem State.setV_awaitingKey (s : State) (x : Reg) (b : Byte) : (s.setV x b).awaitingKey = s.awaitingKey := rfl
@[simp] theorem State.setV_capturedKey (s : State) (x : Reg) (b : Byte) : (s.setV x b).capturedKey = s.capturedKey := rfl
@[simp] theorem State.setV_runState (s : State) (x : Reg) (b : Byte) : (s.setV x b).runState = s.runState := rfl
@[simp] theorem State.setV_fault (s : State) (x : Reg) (b : Byte) : (s.setV x b).fault = s.fault := rfl
@[simp] theorem State.setV_mem (s : State) (x : Reg) (b : Byte) : (s.setV x b).mem = s.mem := rfl
@[simp] theorem State.setV_draws (s : State) (x : Reg) (b : Byte) : (s.setV x b).draws = s.draws := rfl

/-! setI -/

@[simp] theorem State.setI_v (s : State) (w : Word) : (s.setI w).v = s.v := rfl
@[simp] theorem State.setI_i (s : State) (w : Word) : (s.setI w).i = w := rfl
@[simp] theorem State.setI_pc (s : State) (w : Word) : (s.setI w).pc = s.pc := rfl
@[simp] theorem State.setI_stack (s : State) (w : Word) : (s.setI w).stack = s.stack := rfl
@[simp] theorem State.setI_sp (s : State) (w : Word) : (s.setI w).sp = s.sp := rfl
@[simp] theorem State.setI_dt (s : State) (w : Word) : (s.setI w).dt = s.dt := rfl
@[simp] theorem State.setI_st (s : State) (w : Word) : (s.setI w).st = s.st := rfl
@[simp] theorem State.setI_fb (s : State) (w : Word) : (s.setI w).fb = s.fb := rfl
@[simp] theorem State.setI_dirty (s : State) (w : Word) : (s.setI w).dirty = s.dirty := rfl
@[simp] theorem State.setI_keys (s : State) (w : Word) : (s.setI w).keys = s.keys := rfl
@[simp] theorem State.setI_awaitingKey (s : State) (w : Word) : (s.setI w).awaitingKey = s.awaitingKey := rfl
@[simp] theorem State.setI_capturedKey (s : State) (w : Word) : (s.setI w).capturedKey = s.capturedKey := rfl
@[simp] theorem State.setI_runState (s : State) (w : Word) : (s.setI w).runState = s.runState := rfl
@[simp] theorem State.setI_fault (s : State) (w : Word) : (s.setI w).fault = s.fault := rfl
@[simp] theorem State.setI_mem (s : State) (w : Word) : (s.setI w).mem = s.mem := rfl
@[simp] theorem State.setI_draws (s : State) (w : Word) : (s.setI w).draws = s.draws := rfl
@[simp] theorem State.readV_setI (s : State) (w : Word) (g : Reg) :
    (s.setI w).readV g = s.readV g := rfl

/-! setPc -/

@[simp] theorem State.setPc_v (s : State) (w : Word) : (s.setPc w).v = s.v := rfl
@[simp] theorem State.setPc_i (s : State) (w : Word) : (s.setPc w).i = s.i := rfl
@[simp] theorem State.setPc_pc (s : State) (w : Word) : (s.setPc w).pc = w := rfl
@[simp] theorem State.setPc_stack (s : State) (w : Word) : (s.setPc w).stack = s.stack := rfl
@[simp] theorem State.setPc_sp (s : State) (w : Word) : (s.setPc w).sp = s.sp := rfl
@[simp] theorem State.setPc_dt (s : State) (w : Word) : (s.setPc w).dt = s.dt := rfl
@[simp] theorem State.setPc_st (s : State) (w : Word) : (s.setPc w).st = s.st := rfl
@[simp] theorem State.setPc_fb (s : State) (w : Word) : (s.setPc w).fb = s.fb := rfl
@[simp] theorem State.setPc_dirty (s : State) (w : Word) : (s.setPc w).dirty = s.dirty := rfl
@[simp] theorem State.setPc_keys (s : State) (w : Word) : (s.setPc w).keys = s.keys := rfl
@[simp] theorem State.setPc_awaitingKey (s : State) (w : Word) : (s.setPc w).awaitingKey = s.awaitingKey := rfl
@[simp] theorem State.setPc_capturedKey (s : State) (w : Word) : (s.setPc w).capturedKey = s.capturedKey := rfl
@[simp] theorem State.setPc_runState (s : State) (w : Word) : (s.setPc w).runState = s.runState := rfl
@[simp] theorem State.setPc_fault (s : State) (w : Word) : (s.setPc w).fault = s.fault := rfl
@[simp] theorem State.setPc_mem (s : State) (w : Word) : (s.setPc w).mem = s.mem := rfl
@[simp] theorem State.setPc_draws (s : State) (w : Word) : (s.setPc w).draws = s.draws := rfl
@[simp] theorem State.readV_setPc (s : State) (w : Word) (g : Reg) :
    (s.setPc w).readV g = s.readV g := rfl

/-! setStack -/

@[simp] theorem State.setStack_v (s : State) (k : Fin Config.stackCapacity) (w : Word) : (s.setStack k w).v = s.v := rfl
@[simp] theorem State.setStack_i (s : State) (k : Fin Config.stackCapacity) (w : Word) : (s.setStack k w).i = s.i := rfl
@[simp] theorem State.setStack_pc (s : State) (k : Fin Config.stackCapacity) (w : Word) : (s.setStack k w).pc = s.pc := rfl
@[simp] theorem State.setStack_stack (s : State) (k : Fin Config.stackCapacity) (w : Word) : (s.setStack k w).stack = s.stack.set k.val w := rfl
@[simp] theorem State.setStack_sp (s : State) (k : Fin Config.stackCapacity) (w : Word) : (s.setStack k w).sp = s.sp := rfl
@[simp] theorem State.setStack_dt (s : State) (k : Fin Config.stackCapacity) (w : Word) : (s.setStack k w).dt = s.dt := rfl
@[simp] theorem State.setStack_st (s : State) (k : Fin Config.stackCapacity) (w : Word) : (s.setStack k w).st = s.st := rfl
@[simp] theorem State.setStack_fb (s : State) (k : Fin Config.stackCapacity) (w : Word) : (s.setStack k w).fb = s.fb := rfl
@[simp] theorem State.setStack_dirty (s : State) (k : Fin Config.stackCapacity) (w : Word) : (s.setStack k w).dirty = s.dirty := rfl
@[simp] theorem State.setStack_keys (s : State) (k : Fin Config.stackCapacity) (w : Word) : (s.setStack k w).keys = s.keys := rfl
@[simp] theorem State.setStack_awaitingKey (s : State) (k : Fin Config.stackCapacity) (w : Word) : (s.setStack k w).awaitingKey = s.awaitingKey := rfl
@[simp] theorem State.setStack_capturedKey (s : State) (k : Fin Config.stackCapacity) (w : Word) : (s.setStack k w).capturedKey = s.capturedKey := rfl
@[simp] theorem State.setStack_runState (s : State) (k : Fin Config.stackCapacity) (w : Word) : (s.setStack k w).runState = s.runState := rfl
@[simp] theorem State.setStack_fault (s : State) (k : Fin Config.stackCapacity) (w : Word) : (s.setStack k w).fault = s.fault := rfl
@[simp] theorem State.setStack_mem (s : State) (k : Fin Config.stackCapacity) (w : Word) : (s.setStack k w).mem = s.mem := rfl
@[simp] theorem State.setStack_draws (s : State) (k : Fin Config.stackCapacity) (w : Word) : (s.setStack k w).draws = s.draws := rfl
@[simp] theorem State.readV_setStack (s : State) (k : Fin Config.stackCapacity) (w : Word) (g : Reg) :
    (s.setStack k w).readV g = s.readV g := rfl

/-! setSp -/

@[simp] theorem State.setSp_v (s : State) (n : Fin (Config.stackCapacity + 1)) : (s.setSp n).v = s.v := rfl
@[simp] theorem State.setSp_i (s : State) (n : Fin (Config.stackCapacity + 1)) : (s.setSp n).i = s.i := rfl
@[simp] theorem State.setSp_pc (s : State) (n : Fin (Config.stackCapacity + 1)) : (s.setSp n).pc = s.pc := rfl
@[simp] theorem State.setSp_stack (s : State) (n : Fin (Config.stackCapacity + 1)) : (s.setSp n).stack = s.stack := rfl
@[simp] theorem State.setSp_sp (s : State) (n : Fin (Config.stackCapacity + 1)) : (s.setSp n).sp = n := rfl
@[simp] theorem State.setSp_dt (s : State) (n : Fin (Config.stackCapacity + 1)) : (s.setSp n).dt = s.dt := rfl
@[simp] theorem State.setSp_st (s : State) (n : Fin (Config.stackCapacity + 1)) : (s.setSp n).st = s.st := rfl
@[simp] theorem State.setSp_fb (s : State) (n : Fin (Config.stackCapacity + 1)) : (s.setSp n).fb = s.fb := rfl
@[simp] theorem State.setSp_dirty (s : State) (n : Fin (Config.stackCapacity + 1)) : (s.setSp n).dirty = s.dirty := rfl
@[simp] theorem State.setSp_keys (s : State) (n : Fin (Config.stackCapacity + 1)) : (s.setSp n).keys = s.keys := rfl
@[simp] theorem State.setSp_awaitingKey (s : State) (n : Fin (Config.stackCapacity + 1)) : (s.setSp n).awaitingKey = s.awaitingKey := rfl
@[simp] theorem State.setSp_capturedKey (s : State) (n : Fin (Config.stackCapacity + 1)) : (s.setSp n).capturedKey = s.capturedKey := rfl
@[simp] theorem State.setSp_runState (s : State) (n : Fin (Config.stackCapacity + 1)) : (s.setSp n).runState = s.runState := rfl
@[simp] theorem State.setSp_fault (s : State) (n : Fin (Config.stackCapacity + 1)) : (s.setSp n).fault = s.fault := rfl
@[simp] theorem State.setSp_mem (s : State) (n : Fin (Config.stackCapacity + 1)) : (s.setSp n).mem = s.mem := rfl
@[simp] theorem State.setSp_draws (s : State) (n : Fin (Config.stackCapacity + 1)) : (s.setSp n).draws = s.draws := rfl
@[simp] theorem State.readV_setSp (s : State) (n : Fin (Config.stackCapacity + 1)) (g : Reg) :
    (s.setSp n).readV g = s.readV g := rfl

/-! setDt -/

@[simp] theorem State.setDt_v (s : State) (b : Byte) : (s.setDt b).v = s.v := rfl
@[simp] theorem State.setDt_i (s : State) (b : Byte) : (s.setDt b).i = s.i := rfl
@[simp] theorem State.setDt_pc (s : State) (b : Byte) : (s.setDt b).pc = s.pc := rfl
@[simp] theorem State.setDt_stack (s : State) (b : Byte) : (s.setDt b).stack = s.stack := rfl
@[simp] theorem State.setDt_sp (s : State) (b : Byte) : (s.setDt b).sp = s.sp := rfl
@[simp] theorem State.setDt_dt (s : State) (b : Byte) : (s.setDt b).dt = b := rfl
@[simp] theorem State.setDt_st (s : State) (b : Byte) : (s.setDt b).st = s.st := rfl
@[simp] theorem State.setDt_fb (s : State) (b : Byte) : (s.setDt b).fb = s.fb := rfl
@[simp] theorem State.setDt_dirty (s : State) (b : Byte) : (s.setDt b).dirty = s.dirty := rfl
@[simp] theorem State.setDt_keys (s : State) (b : Byte) : (s.setDt b).keys = s.keys := rfl
@[simp] theorem State.setDt_awaitingKey (s : State) (b : Byte) : (s.setDt b).awaitingKey = s.awaitingKey := rfl
@[simp] theorem State.setDt_capturedKey (s : State) (b : Byte) : (s.setDt b).capturedKey = s.capturedKey := rfl
@[simp] theorem State.setDt_runState (s : State) (b : Byte) : (s.setDt b).runState = s.runState := rfl
@[simp] theorem State.setDt_fault (s : State) (b : Byte) : (s.setDt b).fault = s.fault := rfl
@[simp] theorem State.setDt_mem (s : State) (b : Byte) : (s.setDt b).mem = s.mem := rfl
@[simp] theorem State.setDt_draws (s : State) (b : Byte) : (s.setDt b).draws = s.draws := rfl
@[simp] theorem State.readV_setDt (s : State) (b : Byte) (g : Reg) :
    (s.setDt b).readV g = s.readV g := rfl

/-! setSt -/

@[simp] theorem State.setSt_v (s : State) (b : Byte) : (s.setSt b).v = s.v := rfl
@[simp] theorem State.setSt_i (s : State) (b : Byte) : (s.setSt b).i = s.i := rfl
@[simp] theorem State.setSt_pc (s : State) (b : Byte) : (s.setSt b).pc = s.pc := rfl
@[simp] theorem State.setSt_stack (s : State) (b : Byte) : (s.setSt b).stack = s.stack := rfl
@[simp] theorem State.setSt_sp (s : State) (b : Byte) : (s.setSt b).sp = s.sp := rfl
@[simp] theorem State.setSt_dt (s : State) (b : Byte) : (s.setSt b).dt = s.dt := rfl
@[simp] theorem State.setSt_st (s : State) (b : Byte) : (s.setSt b).st = b := rfl
@[simp] theorem State.setSt_fb (s : State) (b : Byte) : (s.setSt b).fb = s.fb := rfl
@[simp] theorem State.setSt_dirty (s : State) (b : Byte) : (s.setSt b).dirty = s.dirty := rfl
@[simp] theorem State.setSt_keys (s : State) (b : Byte) : (s.setSt b).keys = s.keys := rfl
@[simp] theorem State.setSt_awaitingKey (s : State) (b : Byte) : (s.setSt b).awaitingKey = s.awaitingKey := rfl
@[simp] theorem State.setSt_capturedKey (s : State) (b : Byte) : (s.setSt b).capturedKey = s.capturedKey := rfl
@[simp] theorem State.setSt_runState (s : State) (b : Byte) : (s.setSt b).runState = s.runState := rfl
@[simp] theorem State.setSt_fault (s : State) (b : Byte) : (s.setSt b).fault = s.fault := rfl
@[simp] theorem State.setSt_mem (s : State) (b : Byte) : (s.setSt b).mem = s.mem := rfl
@[simp] theorem State.setSt_draws (s : State) (b : Byte) : (s.setSt b).draws = s.draws := rfl
@[simp] theorem State.readV_setSt (s : State) (b : Byte) (g : Reg) :
    (s.setSt b).readV g = s.readV g := rfl

/-! setFb -/

@[simp] theorem State.setFb_v (s : State) (fb : FrameBuffer) : (s.setFb fb).v = s.v := rfl
@[simp] theorem State.setFb_i (s : State) (fb : FrameBuffer) : (s.setFb fb).i = s.i := rfl
@[simp] theorem State.setFb_pc (s : State) (fb : FrameBuffer) : (s.setFb fb).pc = s.pc := rfl
@[simp] theorem State.setFb_stack (s : State) (fb : FrameBuffer) : (s.setFb fb).stack = s.stack := rfl
@[simp] theorem State.setFb_sp (s : State) (fb : FrameBuffer) : (s.setFb fb).sp = s.sp := rfl
@[simp] theorem State.setFb_dt (s : State) (fb : FrameBuffer) : (s.setFb fb).dt = s.dt := rfl
@[simp] theorem State.setFb_st (s : State) (fb : FrameBuffer) : (s.setFb fb).st = s.st := rfl
@[simp] theorem State.setFb_fb (s : State) (fb : FrameBuffer) : (s.setFb fb).fb = fb := rfl
@[simp] theorem State.setFb_dirty (s : State) (fb : FrameBuffer) : (s.setFb fb).dirty = s.dirty := rfl
@[simp] theorem State.setFb_keys (s : State) (fb : FrameBuffer) : (s.setFb fb).keys = s.keys := rfl
@[simp] theorem State.setFb_awaitingKey (s : State) (fb : FrameBuffer) : (s.setFb fb).awaitingKey = s.awaitingKey := rfl
@[simp] theorem State.setFb_capturedKey (s : State) (fb : FrameBuffer) : (s.setFb fb).capturedKey = s.capturedKey := rfl
@[simp] theorem State.setFb_runState (s : State) (fb : FrameBuffer) : (s.setFb fb).runState = s.runState := rfl
@[simp] theorem State.setFb_fault (s : State) (fb : FrameBuffer) : (s.setFb fb).fault = s.fault := rfl
@[simp] theorem State.setFb_mem (s : State) (fb : FrameBuffer) : (s.setFb fb).mem = s.mem := rfl
@[simp] theorem State.setFb_draws (s : State) (fb : FrameBuffer) : (s.setFb fb).draws = s.draws := rfl
@[simp] theorem State.readV_setFb (s : State) (fb : FrameBuffer) (g : Reg) :
    (s.setFb fb).readV g = s.readV g := rfl

/-! setDirty -/

@[simp] theorem State.setDirty_v (s : State) (b : Bool) : (s.setDirty b).v = s.v := rfl
@[simp] theorem State.setDirty_i (s : State) (b : Bool) : (s.setDirty b).i = s.i := rfl
@[simp] theorem State.setDirty_pc (s : State) (b : Bool) : (s.setDirty b).pc = s.pc := rfl
@[simp] theorem State.setDirty_stack (s : State) (b : Bool) : (s.setDirty b).stack = s.stack := rfl
@[simp] theorem State.setDirty_sp (s : State) (b : Bool) : (s.setDirty b).sp = s.sp := rfl
@[simp] theorem State.setDirty_dt (s : State) (b : Bool) : (s.setDirty b).dt = s.dt := rfl
@[simp] theorem State.setDirty_st (s : State) (b : Bool) : (s.setDirty b).st = s.st := rfl
@[simp] theorem State.setDirty_fb (s : State) (b : Bool) : (s.setDirty b).fb = s.fb := rfl
@[simp] theorem State.setDirty_dirty (s : State) (b : Bool) : (s.setDirty b).dirty = b := rfl
@[simp] theorem State.setDirty_keys (s : State) (b : Bool) : (s.setDirty b).keys = s.keys := rfl
@[simp] theorem State.setDirty_awaitingKey (s : State) (b : Bool) : (s.setDirty b).awaitingKey = s.awaitingKey := rfl
@[simp] theorem State.setDirty_capturedKey (s : State) (b : Bool) : (s.setDirty b).capturedKey = s.capturedKey := rfl
@[simp] theorem State.setDirty_runState (s : State) (b : Bool) : (s.setDirty b).runState = s.runState := rfl
@[simp] theorem State.setDirty_fault (s : State) (b : Bool) : (s.setDirty b).fault = s.fault := rfl
@[simp] theorem State.setDirty_mem (s : State) (b : Bool) : (s.setDirty b).mem = s.mem := rfl
@[simp] theorem State.setDirty_draws (s : State) (b : Bool) : (s.setDirty b).draws = s.draws := rfl
@[simp] theorem State.readV_setDirty (s : State) (b : Bool) (g : Reg) :
    (s.setDirty b).readV g = s.readV g := rfl

/-! setKeys -/

@[simp] theorem State.setKeys_v (s : State) (k : Vector Bool Config.numKeys) : (s.setKeys k).v = s.v := rfl
@[simp] theorem State.setKeys_i (s : State) (k : Vector Bool Config.numKeys) : (s.setKeys k).i = s.i := rfl
@[simp] theorem State.setKeys_pc (s : State) (k : Vector Bool Config.numKeys) : (s.setKeys k).pc = s.pc := rfl
@[simp] theorem State.setKeys_stack (s : State) (k : Vector Bool Config.numKeys) : (s.setKeys k).stack = s.stack := rfl
@[simp] theorem State.setKeys_sp (s : State) (k : Vector Bool Config.numKeys) : (s.setKeys k).sp = s.sp := rfl
@[simp] theorem State.setKeys_dt (s : State) (k : Vector Bool Config.numKeys) : (s.setKeys k).dt = s.dt := rfl
@[simp] theorem State.setKeys_st (s : State) (k : Vector Bool Config.numKeys) : (s.setKeys k).st = s.st := rfl
@[simp] theorem State.setKeys_fb (s : State) (k : Vector Bool Config.numKeys) : (s.setKeys k).fb = s.fb := rfl
@[simp] theorem State.setKeys_dirty (s : State) (k : Vector Bool Config.numKeys) : (s.setKeys k).dirty = s.dirty := rfl
@[simp] theorem State.setKeys_keys (s : State) (k : Vector Bool Config.numKeys) : (s.setKeys k).keys = k := rfl
@[simp] theorem State.setKeys_awaitingKey (s : State) (k : Vector Bool Config.numKeys) : (s.setKeys k).awaitingKey = s.awaitingKey := rfl
@[simp] theorem State.setKeys_capturedKey (s : State) (k : Vector Bool Config.numKeys) : (s.setKeys k).capturedKey = s.capturedKey := rfl
@[simp] theorem State.setKeys_runState (s : State) (k : Vector Bool Config.numKeys) : (s.setKeys k).runState = s.runState := rfl
@[simp] theorem State.setKeys_fault (s : State) (k : Vector Bool Config.numKeys) : (s.setKeys k).fault = s.fault := rfl
@[simp] theorem State.setKeys_mem (s : State) (k : Vector Bool Config.numKeys) : (s.setKeys k).mem = s.mem := rfl
@[simp] theorem State.setKeys_draws (s : State) (k : Vector Bool Config.numKeys) : (s.setKeys k).draws = s.draws := rfl
@[simp] theorem State.readV_setKeys (s : State) (k : Vector Bool Config.numKeys) (g : Reg) :
    (s.setKeys k).readV g = s.readV g := rfl

/-! setAwaitingKey -/

@[simp] theorem State.setAwaitingKey_v (s : State) (b : Bool) : (s.setAwaitingKey b).v = s.v := rfl
@[simp] theorem State.setAwaitingKey_i (s : State) (b : Bool) : (s.setAwaitingKey b).i = s.i := rfl
@[simp] theorem State.setAwaitingKey_pc (s : State) (b : Bool) : (s.setAwaitingKey b).pc = s.pc := rfl
@[simp] theorem State.setAwaitingKey_stack (s : State) (b : Bool) : (s.setAwaitingKey b).stack = s.stack := rfl
@[simp] theorem State.setAwaitingKey_sp (s : State) (b : Bool) : (s.setAwaitingKey b).sp = s.sp := rfl
@[simp] theorem State.setAwaitingKey_dt (s : State) (b : Bool) : (s.setAwaitingKey b).dt = s.dt := rfl
@[simp] theorem State.setAwaitingKey_st (s : State) (b : Bool) : (s.setAwaitingKey b).st = s.st := rfl
@[simp] theorem State.setAwaitingKey_fb (s : State) (b : Bool) : (s.setAwaitingKey b).fb = s.fb := rfl
@[simp] theorem State.setAwaitingKey_dirty (s : State) (b : Bool) : (s.setAwaitingKey b).dirty = s.dirty := rfl
@[simp] theorem State.setAwaitingKey_keys (s : State) (b : Bool) : (s.setAwaitingKey b).keys = s.keys := rfl
@[simp] theorem State.setAwaitingKey_awaitingKey (s : State) (b : Bool) : (s.setAwaitingKey b).awaitingKey = b := rfl
@[simp] theorem State.setAwaitingKey_capturedKey (s : State) (b : Bool) : (s.setAwaitingKey b).capturedKey = s.capturedKey := rfl
@[simp] theorem State.setAwaitingKey_runState (s : State) (b : Bool) : (s.setAwaitingKey b).runState = s.runState := rfl
@[simp] theorem State.setAwaitingKey_fault (s : State) (b : Bool) : (s.setAwaitingKey b).fault = s.fault := rfl
@[simp] theorem State.setAwaitingKey_mem (s : State) (b : Bool) : (s.setAwaitingKey b).mem = s.mem := rfl
@[simp] theorem State.setAwaitingKey_draws (s : State) (b : Bool) : (s.setAwaitingKey b).draws = s.draws := rfl
@[simp] theorem State.readV_setAwaitingKey (s : State) (b : Bool) (g : Reg) :
    (s.setAwaitingKey b).readV g = s.readV g := rfl

/-! setCapturedKey -/

@[simp] theorem State.setCapturedKey_v (s : State) (k : Option Key) : (s.setCapturedKey k).v = s.v := rfl
@[simp] theorem State.setCapturedKey_i (s : State) (k : Option Key) : (s.setCapturedKey k).i = s.i := rfl
@[simp] theorem State.setCapturedKey_pc (s : State) (k : Option Key) : (s.setCapturedKey k).pc = s.pc := rfl
@[simp] theorem State.setCapturedKey_stack (s : State) (k : Option Key) : (s.setCapturedKey k).stack = s.stack := rfl
@[simp] theorem State.setCapturedKey_sp (s : State) (k : Option Key) : (s.setCapturedKey k).sp = s.sp := rfl
@[simp] theorem State.setCapturedKey_dt (s : State) (k : Option Key) : (s.setCapturedKey k).dt = s.dt := rfl
@[simp] theorem State.setCapturedKey_st (s : State) (k : Option Key) : (s.setCapturedKey k).st = s.st := rfl
@[simp] theorem State.setCapturedKey_fb (s : State) (k : Option Key) : (s.setCapturedKey k).fb = s.fb := rfl
@[simp] theorem State.setCapturedKey_dirty (s : State) (k : Option Key) : (s.setCapturedKey k).dirty = s.dirty := rfl
@[simp] theorem State.setCapturedKey_keys (s : State) (k : Option Key) : (s.setCapturedKey k).keys = s.keys := rfl
@[simp] theorem State.setCapturedKey_awaitingKey (s : State) (k : Option Key) : (s.setCapturedKey k).awaitingKey = s.awaitingKey := rfl
@[simp] theorem State.setCapturedKey_capturedKey (s : State) (k : Option Key) : (s.setCapturedKey k).capturedKey = k := rfl
@[simp] theorem State.setCapturedKey_runState (s : State) (k : Option Key) : (s.setCapturedKey k).runState = s.runState := rfl
@[simp] theorem State.setCapturedKey_fault (s : State) (k : Option Key) : (s.setCapturedKey k).fault = s.fault := rfl
@[simp] theorem State.setCapturedKey_mem (s : State) (k : Option Key) : (s.setCapturedKey k).mem = s.mem := rfl
@[simp] theorem State.setCapturedKey_draws (s : State) (k : Option Key) : (s.setCapturedKey k).draws = s.draws := rfl
@[simp] theorem State.readV_setCapturedKey (s : State) (k : Option Key) (g : Reg) :
    (s.setCapturedKey k).readV g = s.readV g := rfl

/-! setRunState -/

@[simp] theorem State.setRunState_v (s : State) (r : RunState) : (s.setRunState r).v = s.v := rfl
@[simp] theorem State.setRunState_i (s : State) (r : RunState) : (s.setRunState r).i = s.i := rfl
@[simp] theorem State.setRunState_pc (s : State) (r : RunState) : (s.setRunState r).pc = s.pc := rfl
@[simp] theorem State.setRunState_stack (s : State) (r : RunState) : (s.setRunState r).stack = s.stack := rfl
@[simp] theorem State.setRunState_sp (s : State) (r : RunState) : (s.setRunState r).sp = s.sp := rfl
@[simp] theorem State.setRunState_dt (s : State) (r : RunState) : (s.setRunState r).dt = s.dt := rfl
@[simp] theorem State.setRunState_st (s : State) (r : RunState) : (s.setRunState r).st = s.st := rfl
@[simp] theorem State.setRunState_fb (s : State) (r : RunState) : (s.setRunState r).fb = s.fb := rfl
@[simp] theorem State.setRunState_dirty (s : State) (r : RunState) : (s.setRunState r).dirty = s.dirty := rfl
@[simp] theorem State.setRunState_keys (s : State) (r : RunState) : (s.setRunState r).keys = s.keys := rfl
@[simp] theorem State.setRunState_awaitingKey (s : State) (r : RunState) : (s.setRunState r).awaitingKey = s.awaitingKey := rfl
@[simp] theorem State.setRunState_capturedKey (s : State) (r : RunState) : (s.setRunState r).capturedKey = s.capturedKey := rfl
@[simp] theorem State.setRunState_runState (s : State) (r : RunState) : (s.setRunState r).runState = r := rfl
@[simp] theorem State.setRunState_fault (s : State) (r : RunState) : (s.setRunState r).fault = s.fault := rfl
@[simp] theorem State.setRunState_mem (s : State) (r : RunState) : (s.setRunState r).mem = s.mem := rfl
@[simp] theorem State.setRunState_draws (s : State) (r : RunState) : (s.setRunState r).draws = s.draws := rfl
@[simp] theorem State.readV_setRunState (s : State) (r : RunState) (g : Reg) :
    (s.setRunState r).readV g = s.readV g := rfl

/-! setFault -/

@[simp] theorem State.setFault_v (s : State) (c : FaultCode) : (s.setFault c).v = s.v := rfl
@[simp] theorem State.setFault_i (s : State) (c : FaultCode) : (s.setFault c).i = s.i := rfl
@[simp] theorem State.setFault_pc (s : State) (c : FaultCode) : (s.setFault c).pc = s.pc := rfl
@[simp] theorem State.setFault_stack (s : State) (c : FaultCode) : (s.setFault c).stack = s.stack := rfl
@[simp] theorem State.setFault_sp (s : State) (c : FaultCode) : (s.setFault c).sp = s.sp := rfl
@[simp] theorem State.setFault_dt (s : State) (c : FaultCode) : (s.setFault c).dt = s.dt := rfl
@[simp] theorem State.setFault_st (s : State) (c : FaultCode) : (s.setFault c).st = s.st := rfl
@[simp] theorem State.setFault_fb (s : State) (c : FaultCode) : (s.setFault c).fb = s.fb := rfl
@[simp] theorem State.setFault_dirty (s : State) (c : FaultCode) : (s.setFault c).dirty = s.dirty := rfl
@[simp] theorem State.setFault_keys (s : State) (c : FaultCode) : (s.setFault c).keys = s.keys := rfl
@[simp] theorem State.setFault_awaitingKey (s : State) (c : FaultCode) : (s.setFault c).awaitingKey = s.awaitingKey := rfl
@[simp] theorem State.setFault_capturedKey (s : State) (c : FaultCode) : (s.setFault c).capturedKey = s.capturedKey := rfl
@[simp] theorem State.setFault_runState (s : State) (c : FaultCode) : (s.setFault c).runState = s.runState := rfl
@[simp] theorem State.setFault_fault (s : State) (c : FaultCode) : (s.setFault c).fault = c := rfl
@[simp] theorem State.setFault_mem (s : State) (c : FaultCode) : (s.setFault c).mem = s.mem := rfl
@[simp] theorem State.setFault_draws (s : State) (c : FaultCode) : (s.setFault c).draws = s.draws := rfl
@[simp] theorem State.readV_setFault (s : State) (c : FaultCode) (g : Reg) :
    (s.setFault c).readV g = s.readV g := rfl

/-! setMem -/

@[simp] theorem State.setMem_v (s : State) (m : Memory) : (s.setMem m).v = s.v := rfl
@[simp] theorem State.setMem_i (s : State) (m : Memory) : (s.setMem m).i = s.i := rfl
@[simp] theorem State.setMem_pc (s : State) (m : Memory) : (s.setMem m).pc = s.pc := rfl
@[simp] theorem State.setMem_stack (s : State) (m : Memory) : (s.setMem m).stack = s.stack := rfl
@[simp] theorem State.setMem_sp (s : State) (m : Memory) : (s.setMem m).sp = s.sp := rfl
@[simp] theorem State.setMem_dt (s : State) (m : Memory) : (s.setMem m).dt = s.dt := rfl
@[simp] theorem State.setMem_st (s : State) (m : Memory) : (s.setMem m).st = s.st := rfl
@[simp] theorem State.setMem_fb (s : State) (m : Memory) : (s.setMem m).fb = s.fb := rfl
@[simp] theorem State.setMem_dirty (s : State) (m : Memory) : (s.setMem m).dirty = s.dirty := rfl
@[simp] theorem State.setMem_keys (s : State) (m : Memory) : (s.setMem m).keys = s.keys := rfl
@[simp] theorem State.setMem_awaitingKey (s : State) (m : Memory) : (s.setMem m).awaitingKey = s.awaitingKey := rfl
@[simp] theorem State.setMem_capturedKey (s : State) (m : Memory) : (s.setMem m).capturedKey = s.capturedKey := rfl
@[simp] theorem State.setMem_runState (s : State) (m : Memory) : (s.setMem m).runState = s.runState := rfl
@[simp] theorem State.setMem_fault (s : State) (m : Memory) : (s.setMem m).fault = s.fault := rfl
@[simp] theorem State.setMem_mem (s : State) (m : Memory) : (s.setMem m).mem = m := rfl
@[simp] theorem State.setMem_draws (s : State) (m : Memory) : (s.setMem m).draws = s.draws := rfl
@[simp] theorem State.readV_setMem (s : State) (m : Memory) (g : Reg) :
    (s.setMem m).readV g = s.readV g := rfl

/-! setDraws -/

@[simp] theorem State.setDraws_v (s : State) (n : Nat) : (s.setDraws n).v = s.v := rfl
@[simp] theorem State.setDraws_i (s : State) (n : Nat) : (s.setDraws n).i = s.i := rfl
@[simp] theorem State.setDraws_pc (s : State) (n : Nat) : (s.setDraws n).pc = s.pc := rfl
@[simp] theorem State.setDraws_stack (s : State) (n : Nat) : (s.setDraws n).stack = s.stack := rfl
@[simp] theorem State.setDraws_sp (s : State) (n : Nat) : (s.setDraws n).sp = s.sp := rfl
@[simp] theorem State.setDraws_dt (s : State) (n : Nat) : (s.setDraws n).dt = s.dt := rfl
@[simp] theorem State.setDraws_st (s : State) (n : Nat) : (s.setDraws n).st = s.st := rfl
@[simp] theorem State.setDraws_fb (s : State) (n : Nat) : (s.setDraws n).fb = s.fb := rfl
@[simp] theorem State.setDraws_dirty (s : State) (n : Nat) : (s.setDraws n).dirty = s.dirty := rfl
@[simp] theorem State.setDraws_keys (s : State) (n : Nat) : (s.setDraws n).keys = s.keys := rfl
@[simp] theorem State.setDraws_awaitingKey (s : State) (n : Nat) : (s.setDraws n).awaitingKey = s.awaitingKey := rfl
@[simp] theorem State.setDraws_capturedKey (s : State) (n : Nat) : (s.setDraws n).capturedKey = s.capturedKey := rfl
@[simp] theorem State.setDraws_runState (s : State) (n : Nat) : (s.setDraws n).runState = s.runState := rfl
@[simp] theorem State.setDraws_fault (s : State) (n : Nat) : (s.setDraws n).fault = s.fault := rfl
@[simp] theorem State.setDraws_mem (s : State) (n : Nat) : (s.setDraws n).mem = s.mem := rfl
@[simp] theorem State.setDraws_draws (s : State) (n : Nat) : (s.setDraws n).draws = n := rfl
@[simp] theorem State.readV_setDraws (s : State) (n : Nat) (g : Reg) :
    (s.setDraws n).readV g = s.readV g := rfl

/-! Reading a register -/

@[simp] theorem State.readV_setV_self (s : State) (x : Reg) (b : Byte) : (s.setV x b).readV x = b := by
  simp [State.readV]

theorem State.readV_setV_ne (s : State) {x r : Reg} (b : Byte) (h : r ≠ x) :
    (s.setV x b).readV r = s.readV r := by
  have hv : x.val ≠ r.val := fun e => h (Fin.ext e.symm)
  simp [State.readV, Vector.getElem_set_ne, hv]

theorem State.readV_setV (s : State) (x r : Reg) (b : Byte) :
    (s.setV x b).readV r = if r = x then b else s.readV r := by
  split
  · next h => rw [h, State.readV_setV_self]
  · next h => exact State.readV_setV_ne s b h

/-- Register files that read alike are equal. -/
theorem State.v_ext {s t : State} (h : ∀ r, s.readV r = t.readV r) : s.v = t.v := by
  apply Vector.ext
  intro k hk
  exact h ⟨k, hk⟩

@[simp] theorem State.readV_reset (r : Reg) : State.reset.readV r = 0 := by
  simp [State.readV, State.reset]

end Sys2Proof.Machine
end

