-- ==== Sys2Proof/Laws/Ops.lean ====
section
/-! SUPPORT. One lemma per shared operation: everything it can do. -/

namespace Sys2Proof.Machine

theorem rangeOk_iff (a n : Nat) : rangeOk a n = true ↔ n = 0 ∨ a + n ≤ 4096 := by
  simp [rangeOk]

/-! ### Ranges of memory -/

theorem State.readRange_some {s : State} {a n : Nat} {bs : List Byte} :
    s.readRange a n = some bs ↔
      (n = 0 ∨ a + n ≤ 4096) ∧ bs = (List.range n).map fun k => s.mem.read (a + k) := by
  unfold State.readRange
  split
  · next h => rw [rangeOk_iff] at h; simp [h, eq_comm]
  · next h => rw [rangeOk_iff] at h; simp [h]

theorem State.readRange_none {s : State} {a n : Nat} :
    s.readRange a n = none ↔ n ≠ 0 ∧ 4096 < a + n := by
  unfold State.readRange
  split
  · next h => rw [rangeOk_iff] at h; simp only [reduceCtorEq, false_iff]; omega
  · next h => rw [rangeOk_iff] at h; simp only [true_iff]; omega

theorem State.writeRange_some {s t : State} {a : Nat} {bs : List Byte} :
    s.writeRange a bs = some t ↔
      (bs.length = 0 ∨ a + bs.length ≤ 4096) ∧ t = s.setMem (s.mem.writeAll a bs) := by
  unfold State.writeRange
  split
  · next h =>
    rw [rangeOk_iff] at h
    constructor
    · intro e; cases e; exact ⟨h, rfl⟩
    · rintro ⟨-, rfl⟩; rfl
  · next h => rw [rangeOk_iff] at h; simp only [h, false_and, reduceCtorEq]

theorem State.writeRange_none {s : State} {a : Nat} {bs : List Byte} :
    s.writeRange a bs = none ↔ bs.length ≠ 0 ∧ 4096 < a + bs.length := by
  unfold State.writeRange
  split
  · next h => rw [rangeOk_iff] at h; simp only [reduceCtorEq, false_iff]; omega
  · next h => rw [rangeOk_iff] at h; simp only [true_iff]; omega

/-- A store that is made keeps the canonical form of memory. -/
theorem State.writeRange_wf {s t : State} {a : Nat} {bs : List Byte} (h : s.writeRange a bs = some t)
    (hw : s.mem.wf = true) : t.mem.wf = true := by
  obtain ⟨hr, rfl⟩ := State.writeRange_some.1 h
  cases bs with
  | nil => exact hw
  | cons b bs => exact Memory.wf_writeAll hw (by simpa using hr)

/-! ### Fetch -/

/-- The word at PC, when both its bytes are in memory. -/
theorem State.fetch_eq {s : State} (h : s.pc.toNat ≤ 4094) :
    s.fetch = some (wordOfBytes (s.mem.read s.pc.toNat) (s.mem.read (s.pc.toNat + 1))) := by
  have hr : rangeOk s.pc.toNat 2 = true := (rangeOk_iff _ _).2 (Or.inr (by omega))
  simp [State.fetch, State.readRange, hr, List.range_succ]

theorem State.fetch_none {s : State} (h : 4095 ≤ s.pc.toNat) : s.fetch = none := by
  have hr : s.readRange s.pc.toNat 2 = none :=
    State.readRange_none.2 ⟨by decide, by omega⟩
  simp [State.fetch, hr]

theorem State.fetch_some_bound {s : State} {op : Word} (h : s.fetch = some op) : s.pc.toNat ≤ 4094 := by
  by_contra hn
  rw [State.fetch_none (by omega)] at h
  cases h

/-- The fetch looks at PC and memory only. -/
theorem State.fetch_congr {s t : State} (hp : t.pc = s.pc) (hm : t.mem = s.mem) : t.fetch = s.fetch := by
  unfold State.fetch State.readRange
  rw [hp, hm]

theorem State.enabled_iff (s : State) : s.enabled = true ↔ s.runState = .running ∧ s.fault = .none := by
  simp [State.enabled]

/-! ### Faults and skips -/

theorem State.faulted_eq (s : State) (c : FaultCode) :
    s.faulted c = { s with fault := c, runState := .quit } := rfl

theorem State.skipIf_pc (s : State) (c : Bool) :
    (s.skipIf c).pc = if c then s.pc + 2 else s.pc := by
  cases c <;> rfl

theorem State.skipIf_eq (s : State) (c : Bool) : s.skipIf c = { s with pc := (s.skipIf c).pc } := by
  cases c <;> rfl

/-! ### The stack -/

theorem State.sp_le (s : State) : s.sp.val ≤ 12 := Nat.le_of_lt_succ s.sp.isLt

theorem State.push_some {s t : State} {w : Word} (h : s.push w = some t) :
    ∃ hk : s.sp.val < Config.stackCapacity, t.sp.val = s.sp.val + 1 ∧
      t = { s with stack := s.stack.set s.sp.val w hk, sp := t.sp } := by
  unfold State.push at h
  split at h
  · next hk => cases h; exact ⟨hk, rfl, rfl⟩
  · cases h

theorem State.push_none {s : State} {w : Word} : s.push w = none ↔ s.sp.val = 12 := by
  have hs := s.sp.isLt
  unfold State.push
  split
  · next hk => simp only [reduceCtorEq, false_iff]; exact Nat.ne_of_lt hk
  · next hk =>
    simp only [true_iff]
    have : ¬ s.sp.val < 12 := hk
    have : s.sp.val < 13 := hs
    omega

theorem State.pop_some {s t : State} {w : Word} (h : s.pop = some (w, t)) :
    0 < s.sp.val ∧ t.sp.val = s.sp.val - 1 ∧ s.stack[s.sp.val - 1]? = some w ∧
      t = { s with sp := t.sp } := by
  unfold State.pop at h
  split at h
  · next hk =>
    cases h
    refine ⟨hk, rfl, ?_, rfl⟩
    simp
  · cases h

theorem State.pop_none {s : State} : s.pop = none ↔ s.sp.val = 0 := by
  unfold State.pop
  split
  · next hk => simp only [reduceCtorEq, false_iff]; omega
  · next hk => simp only [true_iff]; omega

/-! ### Registers in bulk -/

/-- The registers written take the bytes, the others and every other field stay. -/
theorem State.readV_writeRegs (s : State) (k : Nat) (bs : List Byte) (r : Reg) :
    (s.writeRegs k bs).readV r = if k ≤ r.val then (bs[r.val - k]?).getD (s.readV r) else s.readV r := by
  induction bs generalizing s k with
  | nil => simp [State.writeRegs]
  | cons b bs ih =>
    rw [State.writeRegs, ih]
    by_cases h1 : k + 1 ≤ r.val
    · have hk : k < Config.numV := by have : r.val < 16 := r.isLt; show k < 16; omega
      have hne : r ≠ (⟨k, hk⟩ : Reg) := fun e => by rw [e] at h1; simp at h1
      have he : r.val - k = (r.val - (k + 1)) + 1 := by omega
      rw [if_pos h1, if_pos (by omega), dif_pos hk, State.readV_setV_ne _ _ hne, he,
        List.getElem?_cons_succ]
    · rw [if_neg h1]
      by_cases h2 : k ≤ r.val
      · have he : r.val = k := by omega
        have hk : k < Config.numV := he ▸ r.isLt
        have hr : r = (⟨k, hk⟩ : Reg) := Fin.ext he
        subst hr
        rw [dif_pos hk]
        simp
      · rw [if_neg h2]
        split
        · next hk =>
          exact State.readV_setV_ne _ _ fun e => h2 (by rw [e])
        · rfl

theorem State.writeRegs_eq (s : State) (k : Nat) (bs : List Byte) :
    s.writeRegs k bs = { s with v := (s.writeRegs k bs).v } := by
  induction bs generalizing s k with
  | nil => rfl
  | cons b bs ih =>
    rw [State.writeRegs, ih]
    split <;> rfl

/-- The registers after a bulk load depend on the registers before it alone. -/
theorem State.writeRegs_v_congr {s t : State} (h : t.v = s.v) (k : Nat) (bs : List Byte) :
    (t.writeRegs k bs).v = (s.writeRegs k bs).v := by
  refine State.v_ext fun r => ?_
  have hr : t.readV r = s.readV r := by unfold State.readV; rw [h]
  rw [State.readV_writeRegs, State.readV_writeRegs, hr]

/-! ### Operand values as numbers -/

theorem zextNNN_toNat (nnn : Addr12) : (zextNNN nnn).toNat = nnn.toNat := by
  unfold zextNNN
  rw [BitVec.toNat_setWidth]
  have := nnn.isLt
  omega

theorem zextByte_toNat (b : Byte) : (zextByte b).toNat = b.toNat := by
  unfold zextByte
  rw [BitVec.toNat_setWidth]
  have := b.isLt
  omega

theorem byteOfKey_toNat (k : Key) : (byteOfKey k).toNat = k.val := by
  unfold byteOfKey
  rw [BitVec.toNat_ofNat]
  have := k.isLt
  omega

theorem regsUpTo_length (s : State) (x : Reg) : (s.regsUpTo x).length = x.val + 1 := by
  simp [State.regsUpTo]

theorem flagByte_toNat (c : Bool) : (flagByte c).toNat = if c then 1 else 0 := by cases c <;> rfl

/-! ### Keys -/

theorem State.keyDown_iff (s : State) (k : Key) (b : Bool) :
    s.keys[k.val]? = some b ↔ s.keyDown k = b := by
  simp [State.keyDown]

theorem firstPressed_some {keys : Vector Bool Config.numKeys} {k : Key}
    (h : firstPressed keys = some k) :
    keys[k.val] = true ∧ ∀ j : Key, j < k → keys[j.val] = false := by
  unfold firstPressed at h
  rw [List.find?_eq_some_iff_getElem] at h
  obtain ⟨hk, n, hn, he, hall⟩ := h
  simp only [List.getElem_finRange] at he hall
  refine ⟨hk, fun j hj => ?_⟩
  have hjn : j.val < n := by
    have hkn : k.val = n := by rw [← he]; simp
    have : j.val < k.val := hj
    omega
  have := hall j.val hjn
  simpa using this

theorem firstPressed_none {keys : Vector Bool Config.numKeys} :
    firstPressed keys = none ↔ ∀ k : Key, keys[k.val] = false := by
  simp [firstPressed]

theorem keyOf_some {b : Byte} {k : Key} : keyOf b = some k ↔ b.toNat = k.val := by
  unfold keyOf
  split
  · next h => simp [Fin.ext_iff]
  · next h =>
    have := k.isLt
    simp only [reduceCtorEq, false_iff]
    omega

theorem keyOf_none {b : Byte} : keyOf b = none ↔ 15 < b.toNat := by
  unfold keyOf
  split
  · next h => simp only [reduceCtorEq, false_iff]; omega
  · next h => simp only [true_iff]; omega

/-- A stall moves PC back and sets AWAITING_KEY, nothing else. -/
theorem State.stall_eq (s : State) :
    s.stall = { s with awaitingKey := true, pc := s.pc - 2 } := rfl

/-- Capturing changes CAPTURED_KEY only, and only when a key is down. -/
theorem State.captureKey_eq (s : State) :
    s.captureKey = { s with capturedKey := (firstPressed s.keys).or s.capturedKey } := by
  unfold State.captureKey
  split
  · next k h => simp [h, State.setCapturedKey]
  · next h => simp [h]

end Sys2Proof.Machine
end

