-- ==== Sys2Proof/Laws/PerInstr.lean ====
section
/-! SUPPORT. One lemma per constructor of Instr: the word an instruction encodes to is selected by the
row of the selection table the instruction belongs to (spec/30_encoding.md R96). -/

namespace Sys2Proof.Laws.EncodeRow

/-- The encoding of an instruction carries the fixed bits of its row. -/
def Statement (i : Instr) : Prop := i.row.selects (encode i) = true

theorem selects_F000 {op : Word} {bits : Word} (h : packNNN (fieldF op) 0 = bits) :
    Row.selects ⟨0xF000, bits⟩ op = true := by
  unfold Row.selects
  exact beq_iff_eq.2 ((and_F000 op).trans h)

theorem selects_F00F {op : Word} {bits : Word} (h : packXYN (fieldF op) 0 0 (fieldN op) = bits) :
    Row.selects ⟨0xF00F, bits⟩ op = true := by
  unfold Row.selects
  exact beq_iff_eq.2 ((and_F00F op).trans h)

theorem selects_F0FF {op : Word} {bits : Word} (h : packXNN (fieldF op) 0 (fieldNN op) = bits) :
    Row.selects ⟨0xF0FF, bits⟩ op = true := by
  unfold Row.selects
  exact beq_iff_eq.2 ((and_F0FF op).trans h)

theorem cls : Statement (.cls) := by unfold Statement; decide

theorem ret : Statement (.ret) := by unfold Statement; decide

theorem jp (nnn : Addr12) : Statement (.jp nnn) := by
  refine selects_F000 ?_
  simp only [encode, fieldF_packNNN]
  decide

theorem call (nnn : Addr12) : Statement (.call nnn) := by
  refine selects_F000 ?_
  simp only [encode, fieldF_packNNN]
  decide

theorem seImm (x : Reg) (nn : Byte) : Statement (.seImm x nn) := by
  refine selects_F000 ?_
  simp only [encode, fieldF_packXNN]
  decide

theorem sneImm (x : Reg) (nn : Byte) : Statement (.sneImm x nn) := by
  refine selects_F000 ?_
  simp only [encode, fieldF_packXNN]
  decide

theorem seReg (x : Reg) (y : Reg) : Statement (.seReg x y) := by
  refine selects_F00F ?_
  simp only [encode, fieldF_packXYN, fieldN_packXYN]
  decide

theorem ldImm (x : Reg) (nn : Byte) : Statement (.ldImm x nn) := by
  refine selects_F000 ?_
  simp only [encode, fieldF_packXNN]
  decide

theorem addImm (x : Reg) (nn : Byte) : Statement (.addImm x nn) := by
  refine selects_F000 ?_
  simp only [encode, fieldF_packXNN]
  decide

theorem ldReg (x : Reg) (y : Reg) : Statement (.ldReg x y) := by
  refine selects_F00F ?_
  simp only [encode, fieldF_packXYN, fieldN_packXYN]
  decide

theorem orReg (x : Reg) (y : Reg) : Statement (.orReg x y) := by
  refine selects_F00F ?_
  simp only [encode, fieldF_packXYN, fieldN_packXYN]
  decide

theorem andReg (x : Reg) (y : Reg) : Statement (.andReg x y) := by
  refine selects_F00F ?_
  simp only [encode, fieldF_packXYN, fieldN_packXYN]
  decide

theorem xorReg (x : Reg) (y : Reg) : Statement (.xorReg x y) := by
  refine selects_F00F ?_
  simp only [encode, fieldF_packXYN, fieldN_packXYN]
  decide

theorem addReg (x : Reg) (y : Reg) : Statement (.addReg x y) := by
  refine selects_F00F ?_
  simp only [encode, fieldF_packXYN, fieldN_packXYN]
  decide

theorem subReg (x : Reg) (y : Reg) : Statement (.subReg x y) := by
  refine selects_F00F ?_
  simp only [encode, fieldF_packXYN, fieldN_packXYN]
  decide

theorem shr (x : Reg) (y : Reg) : Statement (.shr x y) := by
  refine selects_F00F ?_
  simp only [encode, fieldF_packXYN, fieldN_packXYN]
  decide

theorem subnReg (x : Reg) (y : Reg) : Statement (.subnReg x y) := by
  refine selects_F00F ?_
  simp only [encode, fieldF_packXYN, fieldN_packXYN]
  decide

theorem shl (x : Reg) (y : Reg) : Statement (.shl x y) := by
  refine selects_F00F ?_
  simp only [encode, fieldF_packXYN, fieldN_packXYN]
  decide

theorem sneReg (x : Reg) (y : Reg) : Statement (.sneReg x y) := by
  refine selects_F00F ?_
  simp only [encode, fieldF_packXYN, fieldN_packXYN]
  decide

theorem ldI (nnn : Addr12) : Statement (.ldI nnn) := by
  refine selects_F000 ?_
  simp only [encode, fieldF_packNNN]
  decide

theorem jpV0 (nnn : Addr12) : Statement (.jpV0 nnn) := by
  refine selects_F000 ?_
  simp only [encode, fieldF_packNNN]
  decide

theorem rnd (x : Reg) (nn : Byte) : Statement (.rnd x nn) := by
  refine selects_F000 ?_
  simp only [encode, fieldF_packXNN]
  decide

theorem drw (x : Reg) (y : Reg) (n : Nibble) : Statement (.drw x y n) := by
  refine selects_F000 ?_
  simp only [encode, fieldF_packXYN]
  decide

theorem skp (x : Reg) : Statement (.skp x) := by
  refine selects_F0FF ?_
  simp only [encode, fieldF_packXNN, fieldNN_packXNN]
  decide

theorem sknp (x : Reg) : Statement (.sknp x) := by
  refine selects_F0FF ?_
  simp only [encode, fieldF_packXNN, fieldNN_packXNN]
  decide

theorem ldVxDt (x : Reg) : Statement (.ldVxDt x) := by
  refine selects_F0FF ?_
  simp only [encode, fieldF_packXNN, fieldNN_packXNN]
  decide

theorem ldVxK (x : Reg) : Statement (.ldVxK x) := by
  refine selects_F0FF ?_
  simp only [encode, fieldF_packXNN, fieldNN_packXNN]
  decide

theorem ldDtVx (x : Reg) : Statement (.ldDtVx x) := by
  refine selects_F0FF ?_
  simp only [encode, fieldF_packXNN, fieldNN_packXNN]
  decide

theorem ldStVx (x : Reg) : Statement (.ldStVx x) := by
  refine selects_F0FF ?_
  simp only [encode, fieldF_packXNN, fieldNN_packXNN]
  decide

theorem addI (x : Reg) : Statement (.addI x) := by
  refine selects_F0FF ?_
  simp only [encode, fieldF_packXNN, fieldNN_packXNN]
  decide

theorem ldF (x : Reg) : Statement (.ldF x) := by
  refine selects_F0FF ?_
  simp only [encode, fieldF_packXNN, fieldNN_packXNN]
  decide

theorem ldB (x : Reg) : Statement (.ldB x) := by
  refine selects_F0FF ?_
  simp only [encode, fieldF_packXNN, fieldNN_packXNN]
  decide

theorem stRegs (x : Reg) : Statement (.stRegs x) := by
  refine selects_F0FF ?_
  simp only [encode, fieldF_packXNN, fieldNN_packXNN]
  decide

theorem ldRegs (x : Reg) : Statement (.ldRegs x) := by
  refine selects_F0FF ?_
  simp only [encode, fieldF_packXNN, fieldNN_packXNN]
  decide

theorem nop (op : Word) : Statement (.nop op) := beq_iff_eq.2 BitVec.and_zero

end Sys2Proof.Laws.EncodeRow
end

