-- ==== Sys2Proof/Laws/Step.lean ====
section
/-! SUPPORT. What a step can do, said once. -/

namespace Sys2Proof.Machine

theorem step_disabled {s : State} (h : s.enabled = false) : step s = .next s := by
  simp [step, h, notEnabled]

theorem step_enabled {s : State} (h : s.enabled = true) :
    step s = match s.fetch with
      | some op => exec (decodeWord op) s.fetchAhead
      | none => raiseFault .addressRange s := by
  unfold step
  exact (if_pos h).trans (by cases s.fetch <;> rfl)

/-- A step that answers a state was not enabled, faulted at the fetch, or ran the instruction fetched. -/
theorem step_cases {s t : State} (h : step s = .next t) :
    (s.enabled = false ∧ t = s) ∨
    (s.enabled = true ∧ s.fetch = none ∧ t = s.faulted .addressRange) ∨
    (s.enabled = true ∧ ∃ op, s.fetch = some op ∧ exec (decodeWord op) s.fetchAhead = .next t) := by
  cases he : s.enabled with
  | false =>
    rw [step_disabled he] at h
    cases h
    exact .inl ⟨rfl, rfl⟩
  | true =>
    rw [step_enabled he] at h
    cases hf : s.fetch with
    | none => rw [hf] at h; cases h; exact .inr (.inl ⟨rfl, rfl, rfl⟩)
    | some op => rw [hf] at h; exact .inr (.inr ⟨rfl, op, rfl, h⟩)

theorem run_zero (s : State) : Host.Core.run core 0 s = .next s := rfl

/-- One more step of the host's run. -/
theorem run_succ {n : Nat} {s t : State} (h : step s = .next t) :
    Host.Core.run core (n + 1) s = Host.Core.run core n t := by
  have h' : core.step s = .next t := h
  simp only [Host.Core.run, h']

/-- The host's run of some steps and then some more. -/
theorem run_add {m n : Nat} {s t : State} (h : Host.Core.run core m s = .next t) :
    Host.Core.run core (m + n) s = Host.Core.run core n t := by
  induction m generalizing s with
  | zero => cases h; rw [Nat.zero_add]
  | succ m ih =>
    cases hs : step s with
    | next u =>
      rw [run_succ hs] at h
      rw [Nat.add_right_comm, run_succ hs, ih h]
    | fault r => exact nomatch r
    | refused r =>
      have h' : core.step s = .refused r := hs
      simp only [Host.Core.run, h', reduceCtorEq] at h

/-- The first fetch, the first step, and the fetches after it. -/
theorem fetchesInOrder_cons {i : Instr} {is : List Instr} {s : State} :
    Safety.fetchesInOrder (i :: is) s = true ↔
      s.fetch.map decodeWord = some i ∧
        ∃ t, step s = .next t ∧ Safety.fetchesInOrder is t = true := by
  rw [Safety.fetchesInOrder, Bool.and_eq_true, decide_eq_true_eq]
  refine and_congr_right fun _ => ?_
  cases step s <;> simp

/-- Fetches in a row, cut in two. -/
theorem fetchesInOrder_append {is js : List Instr} {s : State} :
    Safety.fetchesInOrder (is ++ js) s = true ↔
      Safety.fetchesInOrder is s = true ∧
        ∃ t, Host.Core.run core is.length s = .next t ∧ Safety.fetchesInOrder js t = true := by
  induction is generalizing s with
  | nil =>
    refine ⟨fun h => ⟨rfl, s, rfl, h⟩, ?_⟩
    rintro ⟨-, t, h, hj⟩
    cases h
    exact hj
  | cons i is ih =>
    rw [List.cons_append, fetchesInOrder_cons, fetchesInOrder_cons, List.length_cons]
    constructor
    · rintro ⟨hi, t, ht, h⟩
      obtain ⟨h1, u, hu, h2⟩ := ih.1 h
      exact ⟨⟨hi, t, ht, h1⟩, u, (run_succ ht).trans hu, h2⟩
    · rintro ⟨⟨hi, t, ht, h1⟩, u, hu, h2⟩
      exact ⟨hi, t, ht, ih.2 ⟨h1, u, (run_succ ht).symm.trans hu, h2⟩⟩

/-- The step of a fetched instruction. -/
theorem step_fetched {i : Instr} {s : State} (h : s.enabled = true)
    (hf : s.fetch.map decodeWord = some i) : step s = exec i s.fetchAhead := by
  rw [step_enabled h]
  cases hw : s.fetch with
  | none => rw [hw] at hf; cases hf
  | some op => rw [hw] at hf; cases hf; rfl

/-- An action is a step or a host event. -/
theorem act_cases {p : Params} {a : Action} {s t : State} (h : act p a s = .next t) :
    (a = .step ∧ step s = .next t) ∨ (∃ e, a = .host e ∧ t = hostEvent p e s) := by
  cases a with
  | step => exact .inl ⟨rfl, h⟩
  | host e => cases h; exact .inr ⟨e, rfl, rfl⟩

/-- The lengths of a ROM that are accepted (R261). -/
theorem romLenOk_iff (rom : List Byte) : romLenOk rom = true ↔ 1 ≤ rom.length ∧ rom.length ≤ 3584 := by
  have : Config.maxRomLen = 3584 := rfl
  simp only [romLenOk, Bool.and_eq_true, decide_eq_true_eq, this]
  omega

/-- The state after the load of a good ROM, and after a bad one. -/
theorem State.load_eq (p : Params) (s : State) (rom : List Byte) :
    State.load p s rom =
      if romLenOk rom then
        { State.reset with mem := (fontMem p.font).writeAll Config.programBase rom, draws := s.draws }
      else { State.reset with mem := fontMem p.font, fault := .romSize, runState := .quit,
                              draws := s.draws } := by
  unfold State.load
  cases romLenOk rom <;> rfl

theorem fontMem_wf (f : Config.Font) : (fontMem f).wf = true :=
  Memory.wf_writeAll rfl (by simp [Config.fontBase, Config.fontSize, Config.glyphSize])

/-- FONT lies at 0x000..0x04F. -/
theorem fontMem_font (f : Config.Font) {a : Nat} (h : a < 80) :
    some ((fontMem f).read a) = f[a]? := by
  have hl : a < f.toList.length := by rw [Vector.length_toList]; exact h
  have := Memory.read_writeAll_inside (m := State.reset.mem) (a := Config.fontBase) (k := a)
    (bs := f.toList) rfl (by simp [Config.fontBase, Config.fontSize, Config.glyphSize]) hl
  rw [Config.fontBase, Nat.zero_add] at this
  rw [fontMem, this]
  simp

/-- Above FONT memory is 0 before the ROM copy. -/
theorem fontMem_above (f : Config.Font) {a : Nat} (h : 80 ≤ a) : (fontMem f).read a = 0 := by
  rw [fontMem, Memory.read_writeAll_outside (.inr (by rw [Vector.length_toList, Config.fontBase, Nat.zero_add]; exact h))]
  exact List.getD_eq_default _ _ h

/-- With the default FONT nothing is listed. -/
theorem fontMem_default : fontMem defaultFont = [] := by decide

end Sys2Proof.Machine
end

