-- ==== Sys2Proof/Tests/Slice0.lean ====
section
/-! SUPPORT. Tests. Expected values are those of spec/95_test_vectors.md (the vector's name is in each
comment) or written out by hand from the encoding table of spec/30_encoding.md R96; none is the model's
own answer. Then, for every statement with hypotheses, a state and operands that meet them. -/

namespace Sys2Proof.Tests

open Sys2Proof Sys2Proof.Machine Sys2Proof.Safety

/-! ## Well-formedness -/

/-- The one thing the field types leave open: a `nop` that carries a word of a defined pattern is
refused, one word for each family that has unrecognized words (R96, R97, R98). -/
theorem test_wf_refuses :
    [Instr.nop 0x00E0, .nop 0x00EE, .nop 0x1000, .nop 0x5120, .nop 0x8126, .nop 0x812E, .nop 0x9120,
      .nop 0xE19E, .nop 0xE1A1, .nop 0xF10A, .nop 0xFF65].all (fun i => !i.wf) = true := by decide

/-- UN1 to UN11: words that are no defined pattern are accepted as `nop`. -/
theorem test_wf_accepts :
    [Instr.nop 0x0000, .nop 0x0123, .nop 0x01E0, .nop 0x0FEE, .nop 0x5231, .nop 0x9AB4, .nop 0x8128,
      .nop 0x812F, .nop 0xE1FF, .nop 0xF185, .nop 0xF10B, .drw 15 15 15].all (fun i => i.wf) = true := by
  decide

/-! ## Decoding: words written out bit by bit from the fields of R91, R96 -/

theorem test_decode_cls : decodeWord 0b0000000011100000 = .cls := by decide
theorem test_decode_ret : decodeWord 0b0000000011101110 = .ret := by decide
theorem test_decode_jp : decodeWord 0b0001101010111100 = .jp 0xABC := by decide
theorem test_decode_call : decodeWord 0b0010001100000001 = .call 0x301 := by decide
theorem test_decode_seImm : decodeWord 0b0011000101000010 = .seImm 1 0x42 := by decide
theorem test_decode_sneImm : decodeWord 0b0100000101000011 = .sneImm 1 0x43 := by decide
theorem test_decode_seReg : decodeWord 0b0101001000110000 = .seReg 2 3 := by decide
theorem test_decode_ldImm : decodeWord 0b0110000110101011 = .ldImm 1 0xAB := by decide
theorem test_decode_addImm : decodeWord 0b0111111100000001 = .addImm 15 0x01 := by decide
theorem test_decode_ldReg : decodeWord 0b1000000100100000 = .ldReg 1 2 := by decide
theorem test_decode_orReg : decodeWord 0b1000000100100001 = .orReg 1 2 := by decide
theorem test_decode_andReg : decodeWord 0b1000000100100010 = .andReg 1 2 := by decide
theorem test_decode_xorReg : decodeWord 0b1000000100100011 = .xorReg 1 2 := by decide
theorem test_decode_addReg : decodeWord 0b1000000100100100 = .addReg 1 2 := by decide
theorem test_decode_subReg : decodeWord 0b1000000100100101 = .subReg 1 2 := by decide
theorem test_decode_shr : decodeWord 0b1000000100100110 = .shr 1 2 := by decide
theorem test_decode_subnReg : decodeWord 0b1000000100100111 = .subnReg 1 2 := by decide
theorem test_decode_shl : decodeWord 0b1000000100101110 = .shl 1 2 := by decide
theorem test_decode_sneReg : decodeWord 0b1001001000110000 = .sneReg 2 3 := by decide
theorem test_decode_ldI : decodeWord 0b1010000100100011 = .ldI 0x123 := by decide
theorem test_decode_jpV0 : decodeWord 0b1011111111111111 = .jpV0 0xFFF := by decide
theorem test_decode_rnd : decodeWord 0b1100000100001111 = .rnd 1 0x0F := by decide
theorem test_decode_drw : decodeWord 0b1101000000010101 = .drw 0 1 5 := by decide
theorem test_decode_skp : decodeWord 0b1110001110011110 = .skp 3 := by decide
theorem test_decode_sknp : decodeWord 0b1110001110100001 = .sknp 3 := by decide
theorem test_decode_ldVxDt : decodeWord 0b1111001100000111 = .ldVxDt 3 := by decide
theorem test_decode_ldVxK : decodeWord 0b1111010100001010 = .ldVxK 5 := by decide
theorem test_decode_ldDtVx : decodeWord 0b1111001100010101 = .ldDtVx 3 := by decide
theorem test_decode_ldStVx : decodeWord 0b1111001100011000 = .ldStVx 3 := by decide
theorem test_decode_addI : decodeWord 0b1111001000011110 = .addI 2 := by decide
theorem test_decode_ldF : decodeWord 0b1111001100101001 = .ldF 3 := by decide
theorem test_decode_ldB : decodeWord 0b1111010000110011 = .ldB 4 := by decide
theorem test_decode_stRegs : decodeWord 0b1111001001010101 = .stRegs 2 := by decide
theorem test_decode_ldRegs : decodeWord 0b1111001001100101 = .ldRegs 2 := by decide

/-- UN2, UN3, UN4, UN6, UN8, UN9, UN10: unrecognized words keep themselves. -/
theorem test_decode_nop :
    [0x0123, 0x01E0, 0x0FEE, 0x5231, 0x812D, 0xE1A2, (0xF166 : Word)].all
      (fun w => decide (decodeWord w = .nop w)) = true := by decide

/-- The encoder gives the words above back (R91). -/
theorem test_encode_words :
    encode (.jp 0xABC) = 0x1ABC ∧ encode (.seImm 1 0x42) = 0x3142 ∧ encode (.subnReg 1 2) = 0x8127 ∧
    encode (.shl 1 2) = 0x812E ∧ encode (.drw 0 1 5) = 0xD015 ∧ encode (.ldRegs 15) = 0xFF65 := by
  decide

/-- The high byte comes first (R65), a word is two bytes, and what follows is given back. -/
theorem test_decode_bytes : decode [0x1A, 0xBC, 0x99] = .ok (.jp 0xABC, [0x99]) := rfl

/-- One byte is no instruction. -/
theorem test_decode_truncated : decode [0x1A] = .error .truncated ∧ decode [] = .error .truncated :=
  ⟨rfl, rfl⟩

/-- A table word is numbered with bit 0 least significant; bits above nbits are 0. -/
theorem test_decode_table_word :
    decodeTableWord 16 0xF265 = some (.ldRegs 2) ∧ decodeTableWord 8 0x12E0 = some .cls := by decide

/-! ## Steps on small states -/

/-- A reset state with some registers set. -/
def regs (l : List (Reg × Byte)) : State := l.foldl (fun s p => s.setV p.1 p.2) State.reset

/-- What the step of a word placed at PC leaves, seen through f; none if it answers no next state. -/
def seen {α : Type} (w : Nat) (s : State) (f : State → α) : Option α :=
  match step (s.withFetchWord 16 w) with
  | .next t => some (f t)
  | .fault _ => none
  | .refused _ => none

/-- PC and FAULT and RUN_STATE. -/
def stop (s : State) : Word × FaultCode × RunState := (s.pc, s.fault, s.runState)

/-- A latch with the keys of a list down. -/
def latch (l : List Key) : Vector Bool 16 := Vector.ofFn fun k => decide (k ∈ l)

/-- CF1. -/
theorem test_jp : seen 0x1ABC State.reset (·.pc) = some 0x0ABC := by decide
/-- CF4: an odd target is allowed. -/
theorem test_jp_odd : seen 0x1201 State.reset stop = some (0x0201, .none, .running) := by decide
/-- CF6: the twelfth push succeeds. -/
theorem test_call_twelfth :
    seen 0x2300 ((State.reset.setPc 0x250).setSp 11) (fun t => (t.pc, t.sp.val, t.stack[11])) =
      some (0x0300, 12, 0x0252) := by decide
/-- CF7. -/
theorem test_call_overflow :
    seen 0x2300 ((State.reset.setPc 0x250).setSp 12) stop = some (0x0252, .stackOverflow, .quit) := by
  decide
/-- CF8: the slot popped keeps its content. -/
theorem test_ret :
    seen 0x00EE (((State.reset.setPc 0x300).setStack 0 0x0ABC).setSp 1)
      (fun t => (t.pc, t.sp.val, t.stack[0])) = some (0x0ABC, 0, 0x0ABC) := by decide
/-- CF9. -/
theorem test_ret_underflow :
    seen 0x00EE State.reset stop = some (0x0202, .stackUnderflow, .quit) := by decide
/-- CF11: no 12-bit mask. -/
theorem test_jpV0_no_mask : seen 0xBFFF (regs [(0, 0xFF)]) (·.pc) = some 0x10FE := by decide
/-- CF12: V0 is used, never VX. -/
theorem test_jpV0_is_v0 : seen 0xB300 (regs [(3, 0x44)]) (·.pc) = some 0x0300 := by decide
/-- CF13, CF14. -/
theorem test_seImm :
    seen 0x3142 (regs [(1, 0x42)]) (·.pc) = some 0x0204 ∧
    seen 0x3143 (regs [(1, 0x42)]) (·.pc) = some 0x0202 := by decide
/-- CF15, CF16. -/
theorem test_sneImm :
    seen 0x4142 (regs [(1, 0x42)]) (·.pc) = some 0x0202 ∧
    seen 0x4143 (regs [(1, 0x42)]) (·.pc) = some 0x0204 := by decide
/-- CF17, CF18. -/
theorem test_seReg :
    seen 0x5120 (regs [(1, 7), (2, 7)]) (·.pc) = some 0x0204 ∧
    seen 0x5120 (regs [(1, 7), (2, 8)]) (·.pc) = some 0x0202 := by decide
/-- CF20, CF22. -/
theorem test_sneReg :
    seen 0x9120 (regs [(1, 7), (2, 8)]) (·.pc) = some 0x0204 ∧
    seen 0x9110 (regs [(1, 7)]) (·.pc) = some 0x0202 := by decide
/-- CF25: a skip past the end of memory faults only at the next fetch. -/
theorem test_skip_past_end :
    seen 0x3000 (State.reset.setPc 0x0FFC) stop = some (0x1000, .none, .running) := by decide

/-- AL2: VF is an ordinary destination. -/
theorem test_ldImm : seen 0x6F07 State.reset (·.readV 15) = some 0x07 := by decide
/-- AL3, AL4: modulo 256, no carry. -/
theorem test_addImm :
    seen 0x7101 (regs [(1, 0xFF), (15, 0x77)]) (fun t => (t.readV 1, t.readV 15)) = some (0, 0x77) ∧
    seen 0x7F01 (regs [(15, 0xFF)]) (·.readV 15) = some 0 := by decide
/-- AL5. -/
theorem test_ldReg :
    seen 0x8120 (regs [(1, 0x11), (2, 0x22)]) (fun t => (t.readV 1, t.readV 2)) =
      some (0x22, 0x22) := by decide
/-- AL7. -/
theorem test_orReg :
    seen 0x8121 (regs [(1, 0x0F), (2, 0xF0), (15, 0x77)]) (fun t => (t.readV 1, t.readV 15)) =
      some (0xFF, 0x77) := by decide
/-- AL8. -/
theorem test_andReg :
    seen 0x8122 (regs [(1, 0x3C), (2, 0x0F), (15, 0x77)]) (fun t => (t.readV 1, t.readV 15)) =
      some (0x0C, 0x77) := by decide
/-- AL9. -/
theorem test_xorReg :
    seen 0x8123 (regs [(1, 0xFF), (2, 0x0F), (15, 0x77)]) (fun t => (t.readV 1, t.readV 15)) =
      some (0xF0, 0x77) := by decide
/-- AL11, AL12. -/
theorem test_addReg :
    seen 0x8124 (regs [(1, 0xFF), (2, 0x01)]) (fun t => (t.readV 1, t.readV 15)) = some (0, 1) ∧
    seen 0x8124 (regs [(1, 0xFE), (2, 0x01), (15, 0x77)]) (fun t => (t.readV 1, t.readV 15)) =
      some (0xFF, 0) := by decide
/-- AF1, AF3, AF5: VF as an operand, as the destination, as both. -/
theorem test_addReg_vf :
    seen 0x81F4 (regs [(1, 0xFF), (15, 0x01)]) (fun t => (t.readV 1, t.readV 15)) = some (0, 1) ∧
    seen 0x8F14 (regs [(15, 0xF0), (1, 0x20)]) (·.readV 15) = some 0x21 ∧
    seen 0x8FF4 (regs [(15, 0x80)]) (·.readV 15) = some 0x02 := by decide
/-- AL14, AL15. -/
theorem test_subReg :
    seen 0x8125 (regs [(1, 5), (2, 5)]) (fun t => (t.readV 1, t.readV 15)) = some (0, 1) ∧
    seen 0x8125 (regs [(1, 5), (2, 6)]) (fun t => (t.readV 1, t.readV 15)) = some (0xFF, 0) := by
  decide
/-- AF9, AF10, AF12. -/
theorem test_subReg_vf :
    seen 0x81F5 (regs []) (fun t => (t.readV 1, t.readV 15)) = some (0xFF, 1) ∧
    seen 0x8F15 (regs [(15, 9), (1, 4)]) (·.readV 15) = some 0xFD ∧
    seen 0x8FF5 (regs [(15, 0x42)]) (·.readV 15) = some 0 := by decide
/-- AL16: VY is not read. -/
theorem test_shr :
    seen 0x8126 (regs [(1, 5), (2, 0xAA)]) (fun t => (t.readV 1, t.readV 2, t.readV 15)) =
      some (2, 0xAA, 1) := by decide
/-- AF13, AF14. -/
theorem test_shr_vf :
    seen 0x8F06 (regs [(15, 3)]) (·.readV 15) = some 0 ∧
    seen 0x81F6 (regs [(1, 3), (15, 0x55)]) (fun t => (t.readV 1, t.readV 15)) = some (1, 1) := by
  decide
/-- AL20, AL21. -/
theorem test_subnReg :
    seen 0x8127 (regs [(1, 5), (2, 5)]) (fun t => (t.readV 1, t.readV 15)) = some (0, 1) ∧
    seen 0x8127 (regs [(1, 6), (2, 5)]) (fun t => (t.readV 1, t.readV 15)) = some (0xFF, 0) := by
  decide
/-- AF15, AF17, AF19. -/
theorem test_subnReg_vf :
    seen 0x81F7 (regs [(1, 3), (15, 5)]) (fun t => (t.readV 1, t.readV 15)) = some (0xFE, 1) ∧
    seen 0x8F17 (regs [(15, 4), (1, 9)]) (·.readV 15) = some 0x08 ∧
    seen 0x8FF7 (regs [(15, 0x42)]) (·.readV 15) = some 0 := by decide
/-- AL22, AL23. -/
theorem test_shl :
    seen 0x812E (regs [(1, 0x81), (2, 0x55)]) (fun t => (t.readV 1, t.readV 2, t.readV 15)) =
      some (2, 0x55, 1) ∧
    seen 0x812E (regs [(1, 0x40), (15, 0x77)]) (fun t => (t.readV 1, t.readV 15)) = some (0x80, 0) := by
  decide
/-- AF20, AF22. -/
theorem test_shl_vf :
    seen 0x8F0E (regs [(15, 0x81)]) (·.readV 15) = some 2 ∧
    seen 0x81FE (regs [(1, 0x81), (15, 0x55)]) (fun t => (t.readV 1, t.readV 15)) = some (2, 1) := by
  decide
/-- AL27, AL28: whatever the draw is, and the next execution takes another. -/
theorem test_rnd :
    seen 0xC1FF State.reset (·.readV 1) = some (Config.randomSource 0 &&& 0xFF) ∧
    seen 0xC1FF State.reset (·.draws) = some 1 := ⟨rfl, rfl⟩

/-- IM1. -/
theorem test_ldI : seen 0xA123 State.reset (·.i) = some 0x0123 := by decide
/-- IM4, IM5: past 0FFF without a mask, wrap at 65536. -/
theorem test_addI :
    seen 0xF01E ((regs [(0, 0xFF)]).setI 0x0FFF) (fun t => (t.i, t.fault)) = some (0x10FE, .none) ∧
    seen 0xF01E ((regs [(0, 0x01)]).setI 0xFFFF) (·.i) = some 0 := by decide
/-- IM7, IM9: the whole byte is multiplied. -/
theorem test_ldF :
    seen 0xF329 (regs [(3, 0x0F)]) (·.i) = some 0x004B ∧
    seen 0xF329 (regs [(3, 0xFF)]) (·.i) = some 0x04FB := by decide
/-- IM10. -/
theorem test_ldB :
    seen 0xF433 ((regs [(4, 0xFE)]).setI 0x300)
      (fun t => (t.mem.read 0x300, t.mem.read 0x301, t.mem.read 0x302, t.i)) =
      some (2, 5, 4, 0x300) := by decide
/-- IM15: no byte is written. -/
theorem test_ldB_range :
    seen 0xF433 ((regs [(4, 0x64)]).setI 0xFFE)
      (fun t => (t.pc, t.fault, t.runState, t.mem.read 0xFFE, t.mem.read 0xFFF)) =
      some (0x202, .addressRange, .quit, 0, 0) := by decide
/-- IM16. -/
theorem test_stRegs :
    seen 0xF255 ((regs [(0, 0x11), (1, 0x22), (2, 0x33), (3, 0x44)]).setI 0x300)
      (fun t => ((List.range 4).map fun k => t.mem.read (0x300 + k), t.i)) =
      some ([0x11, 0x22, 0x33, 0], 0x300) := by decide
/-- IM19. -/
theorem test_stRegs_range :
    seen 0xFF55 ((regs [(0, 0x11)]).setI 0xFF1) (fun t => (t.pc, t.fault, t.mem.read 0xFF1)) =
      some (0x202, .addressRange, 0) := by decide
/-- IM21 (uses FONT). -/
theorem test_ldRegs :
    seen 0xF465 (regs [(5, 0x77)]) (fun t => [0, 1, 2, 3, 4, 5].map t.readV) =
      some [0xF0, 0x90, 0x90, 0x90, 0xF0, 0x77] := by decide
/-- IM22: nothing is loaded. -/
theorem test_ldRegs_range :
    seen 0xF165 ((regs [(0, 0x11)]).setI 0xFFF) (fun t => (t.readV 0, t.pc, t.fault)) =
      some (0x11, 0x202, .addressRange) := by decide

/-- A state with I = 0300, the sprite bytes there, V0, V1 and some pixels lit (row, column). -/
def sprite (bytes : List Byte) (v0 v1 : Byte) (lit : List (Nat × Nat)) : State :=
  (((regs [(0, v0), (1, v1)]).setI 0x300).setMem (Memory.writeAll [] 0x300 bytes)).setFb
    (lit.foldl (fun fb p => flipPixel fb p.1 p.2) blankFb)

/-- The lit ones of the pixels asked for (row, column). -/
def litOf (l : List (Nat × Nat)) (s : State) : List (Nat × Nat) := l.filter fun p => pixel s.fb p.1 p.2

/-- DR1. -/
theorem test_cls :
    seen 0x00E0 (sprite [] 0 0 [(0, 0), (31, 63)])
      (fun t => (litOf [(0, 0), (31, 63)] t, t.dirty)) = some ([], true) := by decide
/-- DR3: clipped at the right edge, not wrapped. -/
theorem test_drw_right_edge :
    seen 0xD011 (sprite [0xFF] 0x3E 0 [])
      (fun t => (litOf [(0, 61), (0, 62), (0, 63), (0, 0), (0, 5), (1, 0)] t, t.readV 15, t.dirty)) =
      some ([(0, 62), (0, 63)], 0, true) := by decide
/-- DR4: clipped at the bottom edge. -/
theorem test_drw_bottom_edge :
    seen 0xD013 (sprite [0xFF, 0xFF, 0xFF] 0 0x1E [])
      (litOf [(29, 0), (30, 0), (30, 7), (30, 8), (31, 0), (31, 7), (0, 0), (0, 7)]) =
      some [(30, 0), (30, 7), (31, 0), (31, 7)] := by decide
/-- DR6: the starting position is taken modulo the display. -/
theorem test_drw_start_wraps :
    seen 0xD011 (sprite [0xC0] 0xFF 0xFF []) (litOf [(31, 63), (31, 0), (0, 63)]) =
      some [(31, 63)] := by decide
/-- DR9: one collision, the other pixels light. -/
theorem test_drw_collision :
    seen 0xD011 (sprite [0xFF] 0 0 [(0, 1)])
      (fun t => (litOf [(0, 0), (0, 1), (0, 2), (0, 7), (0, 8)] t, t.readV 15)) =
      some ([(0, 0), (0, 2), (0, 7)], 1) := by decide
/-- DR16: a collision in a clipped column only does not count. -/
theorem test_drw_clipped_collision :
    seen 0xD011 (sprite [0x0F] 0x3C 0 [(0, 0)])
      (fun t => (litOf [(0, 0), (0, 63)] t, t.readV 15)) = some ([(0, 0)], 0) := by decide
/-- DR14: with X = F the position is read before VF is cleared. -/
theorem test_drw_reads_vf_first :
    seen 0xDF11 ((sprite [0x80] 0 0 []).setV 15 5) (fun t => (litOf [(0, 0), (0, 5)] t, t.readV 15)) =
      some ([(0, 5)], 0) := by decide
/-- DR10, DR12: no row needs no memory; two rows at 0FFF fault and leave VF and DIRTY. -/
theorem test_drw_range :
    seen 0xD010 ((regs [(15, 0x77)]).setI 0xFFF) (fun t => (t.readV 15, t.dirty, t.fault)) =
      some (0, true, .none) ∧
    seen 0xD002 ((regs [(15, 0x77)]).setI 0xFFF) (fun t => (t.readV 15, t.dirty, t.fault)) =
      some (0x77, false, .addressRange) := by decide

/-- KT1, KT2. -/
theorem test_skp :
    seen 0xE09E ((regs [(0, 0x0A)]).setKeys (latch [10])) (·.pc) = some 0x204 ∧
    seen 0xE09E (regs [(0, 0x0A)]) (·.pc) = some 0x202 := by decide
/-- KT6: the index is not masked. -/
theorem test_skp_index :
    seen 0xE09E (regs [(0, 0x10)]) stop = some (0x202, .keyIndex, .quit) := by decide
/-- KT3, KT4. -/
theorem test_sknp :
    seen 0xE0A1 (regs [(0, 0x0A)]) (·.pc) = some 0x204 ∧
    seen 0xE0A1 ((regs [(0, 0x0A)]).setKeys (latch [10])) (·.pc) = some 0x202 := by decide
/-- KT7. -/
theorem test_sknp_index :
    seen 0xE0A1 ((regs [(0, 0xFF)]).setKeys (latch (List.finRange 16))) stop =
      some (0x202, .keyIndex, .quit) := by decide
/-- KT9. -/
theorem test_ldVxDt : seen 0xF307 (State.reset.setDt 0x3C) (·.readV 3) = some 0x3C := by decide
/-- KT10. -/
theorem test_ldDtVx : seen 0xF315 (regs [(3, 0x3C)]) (fun t => (t.dt, t.st)) = some (0x3C, 0) := by
  decide
/-- KT11, KT12. -/
theorem test_ldStVx :
    seen 0xF318 (regs [(3, 2)]) (fun t => (t.st, t.soundActive)) = some (2, true) ∧
    seen 0xF318 (State.reset.setSt 9) (fun t => (t.st, t.soundActive)) = some (0, false) := by decide
/-- KT20: the smallest key is captured, PC back at the instruction. -/
theorem test_ldVxK_capture :
    seen 0xF50A (State.reset.setKeys (latch [3, 9])) (fun t => (t.capturedKey, t.awaitingKey, t.pc)) =
      some (some 3, true, 0x200) := by decide
/-- KT21, KT22: the captured key is released while another is down; it is still down. -/
theorem test_ldVxK_release :
    seen 0xF50A ((State.reset.setKeys (latch [9])).setCapturedKey (some 3))
      (fun t => (t.readV 5, t.capturedKey, t.awaitingKey, t.pc)) = some (3, none, false, 0x202) ∧
    seen 0xFF0A ((State.reset.setKeys (latch [3])).setCapturedKey (some 3))
      (fun t => (t.readV 15, t.pc)) = some (0, 0x200) := by decide

/-- UN2, UN4, UN8: no call, no return, no flag, no fault. -/
theorem test_nop :
    [0x0123, 0x0FEE, 0x8128, 0xF185].all (fun w =>
      decide (seen w (regs [(15, 0x77)]) (fun t => (stop t, t.sp.val, t.readV 15)) =
        some ((0x202, .none, .running), 0, 0x77))) = true := by decide
/-- FT6: the last fetchable address. -/
theorem test_fetch_last : seen 0x0000 (State.reset.setPc 0xFFE) stop = some (0x1000, .none, .running) := by
  decide

/-! ## Statements with hypotheses: states and operands that meet them -/

/-- DecodeOfEncodeIsTheInstruction: a defined instruction and a no-op. -/
theorem test_wit_wf : (Instr.drw 15 15 15).wf = true ∧ (Instr.nop 0x8128).wf = true := by decide

/-- DecoderFollowsSelectionTable: rows of the table that select a word. -/
theorem test_wit_rows :
    (⟨0xF0FF, 0xF065⟩ : Row) ∈ opcodeTable ∧ Row.selects ⟨0xF0FF, 0xF065⟩ 0xFF65 = true ∧
    (⟨0xFFFF, 0x00E0⟩ : Row) ∈ opcodeTable ∧ Row.selects ⟨0xFFFF, 0x00E0⟩ 0x00E0 = true := by decide

/-- StepRunsTheDecodedInstruction, at reset and at the last fetchable address. -/
theorem test_wit_step_runs :
    (State.reset.runState = .running ∧ State.reset.fault = .none ∧ State.reset.pc.toNat ≤ 4094 ∧
      decode [State.reset.mem.read 0x200, State.reset.mem.read 0x201] = .ok (.nop 0, []) ∧
      (Instr.nop 0).wf = true) ∧
    ((State.reset.setPc 0xFFE).pc.toNat ≤ 4094 ∧
      decode [State.reset.mem.read 0xFFE, State.reset.mem.read 0xFFF] = .ok (.nop 0, [])) :=
  ⟨⟨rfl, rfl, by decide, rfl, by decide⟩, by decide, rfl⟩

/-- StepFaultsOnFetchOrWaits: FT3, FT4; then a paused and a faulted state. -/
theorem test_wit_step_faults :
    ((State.reset.setPc 0xFFF).enabled = true ∧ 4095 ≤ (State.reset.setPc 0xFFF).pc.toNat) ∧
    4095 ≤ (State.reset.setPc 0x1000).pc.toNat ∧
    (State.reset.setRunState .paused).runState ≠ .running ∧
    (State.reset.faulted .keyIndex).fault ≠ .none := by decide

/-- FT3: PC stays at the address of the failed fetch, and the step after it changes nothing. -/
theorem test_fetch_fault :
    (match step (State.reset.setPc 0xFFF) with | .next t => some (stop t) | _ => none) =
      some (0xFFF, .addressRange, .quit) := by decide

/-- JumpSetsPc: CF2, the jump to itself, placed at the reset PC. -/
theorem test_wit_jump_self :
    (State.reset.withFetchWord 16 0x1200).enabled = true ∧
    (State.reset.withFetchWord 16 0x1200).pc.toNat = (0x200 : Addr12).toNat ∧
    (State.reset.withFetchWord 16 0x1200).fetch = some (encode (.jp 0x200)) := by decide

/-- JumpSetsPc at 0xFFF (CF3); SkipsOnRegisters: CF23, CF24, one word of each family with N not 0. -/
theorem test_wit_malformed_skips :
    (State.reset.setPc (zextNNN 0xFFF)).fetch = none ∧
    (fieldF 0x5121 = 0x5 ∧ fieldN 0x5121 ≠ 0) ∧ (fieldF 0x912F = 0x9 ∧ fieldN 0x912F ≠ 0) := by
  decide

/-- CallPushesOrOverflows and ReturnPopsOrUnderflows, where their clauses meet. -/
theorem test_wit_stack :
    (State.reset.setSp 11).sp.val < 12 ∧ (State.reset.setSp 12).sp.val = 12 ∧
    0 < (State.reset.setSp 1).sp.val ∧ (State.reset.setSp 0).sp.val = 0 := by decide

/-- The parameters with the default FONT, and with another one. -/
def defaults : Params := { instructionsPerFrame := 4 }
def otherFont : Params := { font := Vector.replicate 80 0xAA, instructionsPerFrame := 4 }

/-- CallReturnPairsRestorePc: E8, its smallest instance: 2204 at 0200, 00EE at 0204. -/
theorem test_wit_pair :
    Balanced 1 1 [.call 0x204, .ret] ∧ State.reset.sp.val + 1 ≤ 12 ∧
    (State.reset.load defaults [0x22, 0x04, 0x00, 0x00, 0x00, 0xEE]).enabled = true ∧
    fetchesInOrder [.call 0x204, .ret]
      (State.reset.load defaults [0x22, 0x04, 0x00, 0x00, 0x00, 0xEE]) = true :=
  ⟨.pair 0 0 0 0x204 [] [] (.done _) (.done _), by decide, by decide, by decide⟩

/-- A pair that holds a pair, and a pair after it: 2206 at 0200, 220A at 0202, then at 0206 the words
220A and 00EE, at 020A the word 00EE. -/
def nestedRom : List Byte :=
  [0x22, 0x06, 0x22, 0x0A, 0x00, 0x00, 0x22, 0x0A, 0x00, 0xEE, 0x00, 0xEE]

/-- CallReturnPairsRestorePc: two pairs in a row, the first with a pair inside it, from an empty stack
and where they just fit. -/
theorem test_wit_pairs :
    Balanced 2 2 [.call 0x206, .call 0x20A, .ret, .ret, .call 0x20A, .ret] ∧
    ((State.reset.load defaults nestedRom).setSp 10).sp.val + 2 ≤ 12 ∧
    fetchesInOrder [.call 0x206, .call 0x20A, .ret, .ret, .call 0x20A, .ret]
      ((State.reset.load defaults nestedRom).setSp 10) = true :=
  ⟨.pair 1 1 1 0x206 [.call 0x20A, .ret] [.call 0x20A, .ret]
    (.pair 0 0 0 0x20A [] [] (.done _) (.done _)) (.pair 1 0 0 0x20A [] [] (.done _) (.done _)),
    by decide, by decide⟩

/-- Two pairs in a row end two words further: PC = 0204 (R130, each pair A + 2). -/
theorem test_pairs_pc :
    (match Host.Core.run core 6 (State.reset.load defaults nestedRom) with
      | .next t => some (t.pc, t.sp.val, t.fault)
      | .fault _ => none
      | .refused _ => none) = some (0x204, 0, .none) := by decide

/-- AddWithCarryOutcomes, SubtractOutcomes, ReverseSubtractOutcomes: AL11 and AF1, AF3, AF5, one for
each choice of VF as an operand. -/
theorem test_wit_alu :
    ((0xFF = ((regs [(1, 0xFF), (2, 0x01)]).readV 1).toNat ∧
      0x01 = ((regs [(1, 0xFF), (2, 0x01)]).readV 2).toNat ∧
      0 = ((regs [(1, 0xFF), (2, 0x01)]).readV regF).toNat ∧ (1 : Reg) ≠ regF ∧ (2 : Reg) ≠ regF)) ∧
    (0xFF = ((regs [(1, 0xFF), (15, 0x01)]).readV 1).toNat ∧
      0x01 = ((regs [(1, 0xFF), (15, 0x01)]).readV 15).toNat ∧ (15 : Reg) = regF) ∧
    (0xF0 = ((regs [(15, 0xF0), (1, 0x20)]).readV 15).toNat ∧
      0x20 = ((regs [(15, 0xF0), (1, 0x20)]).readV 1).toNat ∧ (15 : Reg) = regF ∧ (1 : Reg) ≠ regF) ∧
    (0x80 = ((regs [(15, 0x80)]).readV 15).toNat ∧ (15 : Reg) = regF) := by decide

/-- ShiftOutcomes: AL22 and AF20. -/
theorem test_wit_shift :
    0x81 = ((regs [(1, 0x81)]).readV 1).toNat ∧ (1 : Reg) ≠ regF ∧
    0x81 = ((regs [(15, 0x81)]).readV 15).toNat := by decide

/-- DecimalDigitsStored (IM14), RegistersStored and RegistersLoaded (IM18), at the last legal base. -/
theorem test_wit_memory :
    State.reset.mem.wf = true ∧ (State.reset.setI 0xFFD).i.toNat + 2 ≤ 4095 ∧
    (State.reset.setI 0xFF0).i.toNat + (15 : Reg).val ≤ 4095 ∧ (3 : Reg) ≤ 15 ∧ (3 : Reg) < 15 := by
  decide

/-- DataRangeFaults, each clause at the first base that faults: IM15, IM19, DR12. -/
theorem test_wit_range :
    (State.reset.setI 0xFFE).i.toNat + 2 > 4095 ∧
    (State.reset.setI 0xFF1).i.toNat + (15 : Reg).val > 4095 ∧
    1 ≤ (2 : Nibble).toNat ∧ (State.reset.setI 0xFFF).i.toNat + (2 : Nibble).toNat - 1 > 4095 := by
  decide

/-- FontRoundTrip: glyph F in the reset state, and a state that holds another font. -/
theorem test_wit_font :
    (((regs [(0, 0x0F)]).readV 0).toNat ≤ 15 ∧
      ∀ a, a < 80 → some ((regs [(0, 0x0F)]).mem.read a) = defaultFont[a]?) ∧
    ∀ a, a < 80 →
      some ((State.reset.setMem (fontMem otherFont.font)).mem.read a) = otherFont.font[a]? := by
  refine ⟨⟨by decide, ?_⟩, fun a h => fontMem_font _ h⟩
  show ∀ a, a < 80 → some (Memory.unlisted a) = defaultFont[a]?
  decide

/-- StoreIsSeenByNextFetch: IM24, PC two further than the store. -/
theorem test_wit_store_seen :
    (State.reset.setI 0x202).mem.wf = true ∧ (State.reset.setI 0x202).i.toNat + (1 : Reg).val ≤ 4095 ∧
    (0 : Reg) < 1 ∧
    ((State.reset.setI 0x202).setPc 0x202).pc.toNat =
      ((State.reset.setI 0x202).setPc 0x202).i.toNat + (0 : Reg).val := by decide

/-- SpriteIsXoredAndClipped: DR10 (no row), DR11 (the last address), and the two clauses about VF:
DR7 (a lit pixel is hit) and DR2 (none is). -/
theorem test_wit_sprite :
    (0 : Nibble).toNat = 0 ∧ (State.reset.setI 0xFFF).i.toNat + (1 : Nibble).toNat - 1 ≤ 4095 ∧
    [0x80] = (List.range (1 : Nibble).toNat).map
      (fun k => (sprite [0x80] 0 0 [(0, 0)]).mem.read ((sprite [0x80] 0 0 [(0, 0)]).i.toNat + k)) ∧
    spriteBit [0x80] 0 0 0 0 = true ∧ pixel (sprite [0x80] 0 0 [(0, 0)]).fb 0 0 = true := by decide

theorem test_wit_sprite_blank (r c : Nat) (_ : spriteBit [0x80] 0 0 r c = true) :
    pixel (sprite [0x80] 0 0 []).fb r c = false := by
  unfold pixel
  split
  · simp [sprite, State.setFb, blankFb]
  · rfl

/-- DrawingTwiceRestores: X and Y are not VF, and a dark pixel lies under a set bit (DR2). -/
theorem test_wit_draw_twice :
    (0 : Reg) ≠ regF ∧ (1 : Reg) ≠ regF ∧ spriteBit [0x80] 0 0 0 0 = true ∧
    pixel (sprite [0x80] 0 0 []).fb 0 0 = false := by decide

/-- SkipsOnKey at the largest key (KT5), KeyIndexFaults at the smallest value above it (KT6). -/
theorem test_wit_keys :
    ((regs [(0, 0x0F)]).readV 0).toNat = (15 : Key).val ∧ ((regs [(0, 0x10)]).readV 0).toNat > 15 := by
  decide

/-- KeyWaitCapturesAndStalls: KT20, then no key at all. -/
theorem test_wit_key_wait :
    ((State.reset.setKeys (latch [3, 9])).capturedKey = none ∧
      (State.reset.setKeys (latch [3, 9])).keys[(3 : Key).val]? = some true ∧
      ∀ j : Key, j < 3 → (State.reset.setKeys (latch [3, 9])).keys[j.val]? = some false) ∧
    ∀ k : Key, State.reset.keys[k.val]? = some false := by decide

/-- KeyWaitCompletesOnRelease: KT22 and KT21. -/
theorem test_wit_key_release :
    (State.reset.setCapturedKey (some 3)).capturedKey = some 3 ∧
    (State.reset.setKeys (latch [3])).keys[(3 : Key).val]? = some true ∧
    (State.reset.setKeys (latch [9])).keys[(3 : Key).val]? = some false := by decide

/-- KeyWaitRetriesWithoutKey: E3. -/
theorem test_wit_key_retry :
    (State.reset.withFetchWord 16 0xF50A).enabled = true ∧
    (State.reset.withFetchWord 16 0xF50A).fetch = some (encode (.ldVxK 5)) ∧
    (State.reset.withFetchWord 16 0xF50A).capturedKey = none ∧
    ∀ k : Key, (State.reset.withFetchWord 16 0xF50A).keys[k.val]? = some false := by decide

/-- UnrecognizedWordOnlyAdvancesPc: UN1, the word of empty memory. -/
theorem test_wit_unrecognized :
    (∀ r ∈ opcodeTable, r.selects 0 = false) ∧ State.reset.fetch = some 0 := by decide

/-- TickLowersTimers and ResetLoadsOrRejects: the state after the event is a state; KT13, KT14. -/
theorem test_tick :
    (((State.reset.setDt 2).setSt 1).tick.dt, ((State.reset.setDt 2).setSt 1).tick.st) = (1, 0) ∧
    (State.reset.tick.dt, State.reset.tick.st) = (0, 0) := by decide

/-- PauseHoldsAndFaultCannotResume: KT18, KT19. -/
theorem test_wit_pause :
    State.reset.runState = .running ∧ (State.reset.faulted .stackOverflow).fault ≠ .none := by decide

/-- ResetLoadsOrRejects, RomLengthBoundary: E4, a ROM of each boundary length. -/
theorem test_wit_rom_lengths :
    (List.replicate 3584 (1 : Byte)).length = 3584 ∧ (List.replicate 3585 (1 : Byte)).length = 3585 ∧
    ([1] : List Byte).length = 1 ∧ ([] : List Byte).length = 0 :=
  ⟨List.length_replicate, List.length_replicate, rfl, rfl⟩

/-- E4: one byte is loaded at 0200 and the Machine runs; no byte is an error. -/
theorem test_load :
    ((State.reset.load defaults [0x5A]).mem.read 0x200,
      (State.reset.load defaults [0x5A]).mem.read 0x201,
      stop (State.reset.load defaults [0x5A])) = (0x5A, 0, 0x200, .none, .running) ∧
    stop (State.reset.load defaults []) = (0x200, .romSize, .quit) := by decide

/-- R66: FONT is a parameter; the bytes above it do not depend on it, and a failed load has it too
(R261). -/
theorem test_load_font :
    ((State.reset.load otherFont [0x5A]).mem.read 0x4F, (State.reset.load otherFont [0x5A]).mem.read 0x50,
      (State.reset.load otherFont []).mem.read 0) = (0xAA, 0, 0xAA) := by decide

/-- ResetStateIsAZeroRom: the two ends of its range. -/
theorem test_wit_zero_rom :
    defaults.font = defaultFont ∧ (1 ≤ 1 ∧ 1 ≤ 3584) ∧ (1 ≤ 3584 ∧ 3584 ≤ 3584) := by decide

/-- A state in the middle of a key wait: an FX0A stalled at PC with key 3 captured. -/
def waiting : State :=
  ((State.reset.withFetchWord 16 0xF50A).setAwaitingKey true).setCapturedKey (some 3)

/-- InvariantKeptByStep, InvariantKeptByHost: the reset state and a state in a key wait. -/
theorem test_wit_inv : Inv State.reset ∧ Inv waiting ∧ (∃ t, step waiting = .next t) :=
  ⟨⟨by decide, fun h => absurd rfl h, fun h => absurd h (by decide)⟩,
    ⟨by decide, fun _ => rfl, fun _ => ⟨5, by decide⟩⟩, ⟨_, rfl⟩⟩

/-- FaultsAreExactlyTheListed: an instruction that faults and one that does not, for each kind of
cause. -/
theorem test_wit_fault_of :
    faultOf (.call 0x300) (State.reset.setSp 12) = some .stackOverflow ∧
    faultOf .ret State.reset = some .stackUnderflow ∧
    faultOf (.ldB 0) (State.reset.setI 0xFFE) = some .addressRange ∧
    faultOf (.skp 0) (regs [(0, 0x10)]) = some .keyIndex ∧
    faultOf (.ldB 0) (State.reset.setI 0xFFD) = none := by decide

/-- SafeStepStaysEnabled: the reset state. -/
theorem test_wit_safe_step : SafeStep State.reset := ⟨by decide, 0, by decide, by decide⟩

/-- FaultIsStickyUntilReset: FT10, a faulted state and a few actions that are no reset. -/
theorem test_wit_sticky :
    (State.reset.faulted .addressRange).fault ≠ .none ∧
    (∀ rom, Action.host (.reset rom) ∉
      [Action.step, .host .tick, .host (.refreshKeys (latch [3])), .host (.setRunState .running)]) ∧
    ∃ t, runActions defaults [.step, .host .tick, .host (.refreshKeys (latch [3])),
      .host (.setRunState .running)] (State.reset.faulted .addressRange) = .next t :=
  ⟨by decide, by simp, _, rfl⟩

/-- OnlyListedInstructionsWrite: an instruction that changes each field. -/
theorem test_wit_writes :
    (∃ t, exec (.ldI 1) State.reset = .next t ∧ t.i ≠ State.reset.i) ∧
    (∃ t, exec (.ldDtVx 1) (regs [(1, 1)]) = .next t ∧ t.dt ≠ (regs [(1, 1)]).dt) ∧
    (∃ t, exec (.ldStVx 1) (regs [(1, 1)]) = .next t ∧ t.st ≠ (regs [(1, 1)]).st) ∧
    (∃ t, exec (.call 1) State.reset = .next t ∧ t.stack ≠ State.reset.stack ∧
      t.sp ≠ State.reset.sp) ∧
    (∃ t, exec .cls State.reset = .next t ∧ t.dirty ≠ State.reset.dirty) ∧
    (∃ t, exec (.ldVxK 1) State.reset = .next t ∧ t.awaitingKey ≠ State.reset.awaitingKey) ∧
    (∃ t, exec (.stRegs 1) ((regs [(1, 1)]).setI 0x300) = .next t ∧ t.mem ≠ []) ∧
    (∃ t, exec .ret State.reset = .next t ∧ t.fault ≠ State.reset.fault) ∧
    (∃ t, exec (.rnd 1 0xFF) State.reset = .next t ∧ t.draws ≠ State.reset.draws) :=
  ⟨⟨_, rfl, by decide⟩, ⟨_, rfl, by decide⟩, ⟨_, rfl, by decide⟩, ⟨_, rfl, by decide, by decide⟩,
    ⟨_, rfl, by decide⟩, ⟨_, rfl, by decide⟩, ⟨_, rfl, by decide⟩, ⟨_, rfl, by decide⟩,
    ⟨_, rfl, by decide⟩⟩

/-- RegistersChangeOnlyAsDestination: V2 under ADD V1, V2, and VF under an instruction that writes no
flag. -/
theorem test_wit_registers :
    (∃ t, exec (.addReg 1 2) State.reset = .next t) ∧ destReg (.addReg 1 2) 2 = false ∧
    (2 : Reg) ≠ regF ∧
    (∃ t, exec (.orReg 1 2) State.reset = .next t) ∧ destReg (.orReg 1 2) regF = false ∧
    writesFlag (.orReg 1 2) = false :=
  ⟨⟨_, rfl⟩, rfl, by decide, ⟨_, rfl⟩, rfl, rfl⟩

/-- OtherInstructionsLeavePc: an instruction that moves PC. -/
theorem test_wit_other_pc : ∃ t, exec (.jp 0x300) State.reset = .next t ∧ t.pc ≠ State.reset.pc :=
  ⟨_, rfl, by decide⟩

/-- SoundTimerAndDirtyAreNeverRead, LatchReadOnlyByKeyInstructions: an instruction that completes and
reads no key. -/
theorem test_wit_never_read :
    (∃ t, exec (.ldVxDt 0) State.reset = .next t) ∧ readsKeys (.ldVxDt 0) = false := ⟨⟨_, rfl⟩, rfl⟩

end Sys2Proof.Tests
end

section
/-! The fields of a word as slices (spec/30_encoding.md R92): a slice of a bit vector is a quotient reduced
by a power of two, and it is a shift under a mask of ones. Each field of a word is one instance. -/

namespace Sys2Proof

/-- The bits of a word from `start` up, `len` of them, are the shifted word under a mask of `len` ones. -/
theorem setWidth_extract_eq_shift_and_mask (op mask : Word) (start len : Nat)
    (hmask : mask.toNat = 2 ^ len - 1) :
    (op.extractLsb' start len).setWidth 16 = (op >>> start) &&& mask := by
  apply BitVec.eq_of_toNat_eq
  have hlt : (op.toNat >>> start) % 2 ^ len < 2 ^ 16 :=
    (Nat.mod_le _ _).trans_lt (op >>> start).isLt
  rw [BitVec.toNat_setWidth, BitVec.extractLsb'_toNat, Nat.mod_eq_of_lt hlt, BitVec.toNat_and,
    BitVec.toNat_ushiftRight, hmask, Nat.and_two_pow_sub_one_eq_mod]

theorem setWidth_extract_zero_eq_and_mask (op mask : Word) (len : Nat)
    (hmask : mask.toNat = 2 ^ len - 1) : (op.extractLsb' 0 len).setWidth 16 = op &&& mask := by
  rw [setWidth_extract_eq_shift_and_mask op mask 0 len hmask, BitVec.ushiftRight_zero]

theorem toNat_extract_eq_div_mod {w : Nat} (op : BitVec w) (start len : Nat) :
    (op.extractLsb' start len).toNat = op.toNat / 2 ^ start % 2 ^ len := by
  rw [BitVec.extractLsb'_toNat, Nat.shiftRight_eq_div_pow]

theorem fieldF_toNat (op : Word) : (fieldF op).toNat = op.toNat / 4096 := by
  have hslice : (fieldF op).toNat = op.toNat / 4096 % 16 := toNat_extract_eq_div_mod op 12 4
  omega

theorem fieldX_val (op : Word) : (fieldX op).val = op.toNat / 256 % 16 :=
  toNat_extract_eq_div_mod op 8 4

theorem fieldY_val (op : Word) : (fieldY op).val = op.toNat / 16 % 16 :=
  toNat_extract_eq_div_mod op 4 4

theorem fieldN_toNat (op : Word) : (fieldN op).toNat = op.toNat % 16 :=
  BitVec.extractLsb'_toNat 0 4 op

theorem fieldNN_toNat (op : Word) : (fieldNN op).toNat = op.toNat % 256 :=
  BitVec.extractLsb'_toNat 0 8 op

theorem fieldNNN_toNat (op : Word) : (fieldNNN op).toNat = op.toNat % 4096 :=
  BitVec.extractLsb'_toNat 0 12 op

theorem fieldNNN_eq_and_mask (op : Word) : (fieldNNN op).setWidth 16 = op &&& 0x0FFF :=
  setWidth_extract_zero_eq_and_mask op 0x0FFF 12 rfl

theorem fieldNN_eq_and_mask (op : Word) : (fieldNN op).setWidth 16 = op &&& 0x00FF :=
  setWidth_extract_zero_eq_and_mask op 0x00FF 8 rfl

theorem fieldN_eq_and_mask (op : Word) : (fieldN op).setWidth 16 = op &&& 0x000F :=
  setWidth_extract_zero_eq_and_mask op 0x000F 4 rfl

theorem fieldX_eq_shift_and_mask (op : Word) :
    BitVec.ofNat 16 (fieldX op).val = (op >>> 8) &&& 0xF :=
  (BitVec.ofNat_toNat 16 (op.extractLsb' 8 4)).trans
    (setWidth_extract_eq_shift_and_mask op 0xF 8 4 rfl)

theorem fieldY_eq_shift_and_mask (op : Word) :
    BitVec.ofNat 16 (fieldY op).val = (op >>> 4) &&& 0xF :=
  (BitVec.ofNat_toNat 16 (op.extractLsb' 4 4)).trans
    (setWidth_extract_eq_shift_and_mask op 0xF 4 4 rfl)

/-- Settles O1: each field is one instance of the two readings of a slice, as a number and by a mask. -/
theorem fieldsAreTheNamedSlices : Obligations.FieldsAreTheNamedSlices := fun op =>
  ⟨fieldF_toNat op, fieldX_val op, fieldY_val op, fieldN_toNat op, fieldNN_toNat op,
    fieldNNN_toNat op, fieldNNN_eq_and_mask op, fieldNN_eq_and_mask op, fieldN_eq_and_mask op,
    fieldX_eq_shift_and_mask op, fieldY_eq_shift_and_mask op⟩

end Sys2Proof
end

section
/-! Control flow (spec/40_control_flow.md R122, R125 to R129): the jump, and the four skips as instances of
one law of the skip. -/

namespace Sys2Proof

open Sys2Proof.Machine Sys2Proof.Safety

/-! ### The jump (R122) -/

theorem exec_jp (nnn : Addr12) (s : State) : exec (.jp nnn) s = .next (s.setPc (zextNNN nnn)) := rfl

theorem decodeWord_encode_jp (nnn : Addr12) : decodeWord (encode (.jp nnn)) = .jp nnn := by
  simp [encode, decodeWord]

theorem onlyPc_setPc (s : State) (w : Word) : OnlyPc s (s.setPc w) := rfl

/-- PC is written by the fetch-ahead and then by the jump: the second write is the one that stays. -/
theorem setPc_fetchAhead_self (s : State) : s.fetchAhead.setPc s.pc = s := rfl

theorem zextNNN_eq_of_toNat_eq {nnn : Addr12} {w : Word} (h : w.toNat = nnn.toNat) : zextNNN nnn = w :=
  BitVec.eq_of_toNat_eq ((zextNNN_toNat nnn).trans h.symm)

/-- 0xFFF is the last byte of memory, so the second byte of a word there is out of range (R226). -/
theorem fetch_setPc_last (s : State) : (s.setPc (zextNNN 0xFFF)).fetch = none :=
  State.fetch_none (zextNNN_toNat 0xFFF).ge

/-- A fetched jump to the address it is fetched from undoes the fetch-ahead. -/
theorem step_self_jump {nnn : Addr12} {s : State} (hen : s.enabled = true)
    (hpc : s.pc.toNat = nnn.toNat) (hf : s.fetch = some (encode (.jp nnn))) : step s = .next s := by
  have hdec : s.fetch.map decodeWord = some (.jp nnn) := by
    rw [hf, Option.map_some, decodeWord_encode_jp]
  rw [step_fetched hen hdec, exec_jp, zextNNN_eq_of_toNat_eq hpc, setPc_fetchAhead_self]

/-- Settles O10: the target is below 4096 and so fits PC as it is; the self-jump is `step_self_jump`. -/
theorem jumpSetsPc : Obligations.JumpSetsPc := by
  constructor
  · intro nnn s
    refine ⟨_, exec_jp nnn s, zextNNN_toNat nnn, onlyPc_setPc s _, ?_⟩
    rintro rfl
    exact fetch_setPc_last s
  · intro nnn s hrun hfault hpc hf
    exact step_self_jump ((State.enabled_iff s).2 ⟨hrun, hfault⟩) hpc hf

/-! ### The skips (R125 to R129) -/

theorem exec_seImm (x : Reg) (nn : Byte) (s : State) :
    exec (.seImm x nn) s = .next (s.skipIf (decide (s.readV x = nn))) := rfl

theorem exec_sneImm (x : Reg) (nn : Byte) (s : State) :
    exec (.sneImm x nn) s = .next (s.skipIf (decide (s.readV x ≠ nn))) := rfl

theorem exec_seReg (x y : Reg) (s : State) :
    exec (.seReg x y) s = .next (s.skipIf (decide (s.readV x = s.readV y))) := rfl

theorem exec_sneReg (x y : Reg) (s : State) :
    exec (.sneReg x y) s = .next (s.skipIf (decide (s.readV x ≠ s.readV y))) := rfl

theorem exec_nop (op : Word) (s : State) : exec (.nop op) s = .next s := rfl

theorem skipIf_pc_toNat (taken : Prop) [Decidable taken] (s : State) :
    (s.skipIf (decide taken)).pc.toNat = skipTarget taken s.pc := by
  rw [State.skipIf_pc, skipTarget]
  by_cases h : taken
  · simp only [h, decide_true, if_true, BitVec.toNat_add]
    rfl
  · simp [h]

/-- Every skip on a register value is this law at its own condition: PC moves by two or not at all, and
nothing else does. -/
theorem exec_skip_of_eq (taken : Prop) [Decidable taken] {i : Instr} {s : State}
    (h : exec i s = .next (s.skipIf (decide taken))) :
    ∃ t, exec i s = .next t ∧ t.pc.toNat = skipTarget taken s.pc ∧ OnlyPc s t :=
  ⟨_, h, skipIf_pc_toNat taken s, State.skipIf_eq s _⟩

/-- In the families 5 and 9 the word is a skip only when its N nibble is 0 (R127, R128). -/
theorem decodeWord_malformed_skip {op : Word} (hF : fieldF op = 0x5 ∨ fieldF op = 0x9)
    (hN : fieldN op ≠ 0) : decodeWord op = .nop op := by
  obtain h5 | h9 := hF
  · simpa [decodeWord, h5] using hN
  · simpa [decodeWord, h9] using hN

/-- Settles O12: both skips are the law of the skip, at V[X] = NN and at its negation. -/
theorem skipsOnImmediate : Obligations.SkipsOnImmediate := fun x nn s =>
  ⟨exec_skip_of_eq _ (exec_seImm x nn s), exec_skip_of_eq _ (exec_sneImm x nn s)⟩

/-- Settles O13: a word with N not 0 decodes to the no-op, and the two skips are the law of the skip. -/
theorem skipsOnRegisters : Obligations.SkipsOnRegisters := by
  constructor
  · intro op s hF hN
    rw [decodeWord_malformed_skip hF hN, exec_nop]
  · intro x y s
    exact ⟨exec_skip_of_eq _ (exec_seReg x y s), exec_skip_of_eq _ (exec_sneReg x y s)⟩

end Sys2Proof
end

section
/-! Arithmetic and logic without a flag (spec/41_arith_logic.md R141 to R146): the six instructions are
instances of one law of the register write. -/

namespace Sys2Proof

open Sys2Proof.Machine Sys2Proof.Safety

theorem exec_ldImm (x : Reg) (nn : Byte) (s : State) : exec (.ldImm x nn) s = .next (s.setV x nn) := rfl

theorem exec_addImm (x : Reg) (nn : Byte) (s : State) :
    exec (.addImm x nn) s = .next (s.setV x (s.readV x + nn)) := rfl

theorem exec_ldReg (x y : Reg) (s : State) :
    exec (.ldReg x y) s = .next (s.setV x (s.readV y)) := rfl

theorem exec_orReg (x y : Reg) (s : State) :
    exec (.orReg x y) s = .next (s.setV x (s.readV x ||| s.readV y)) := rfl

theorem exec_andReg (x y : Reg) (s : State) :
    exec (.andReg x y) s = .next (s.setV x (s.readV x &&& s.readV y)) := rfl

theorem exec_xorReg (x y : Reg) (s : State) :
    exec (.xorReg x y) s = .next (s.setV x (s.readV x ^^^ s.readV y)) := rfl

theorem onlyV_setV (s : State) (x : Reg) (b : Byte) : OnlyV x s (s.setV x b) :=
  ⟨rfl, fun _ hr => State.readV_setV_ne s b hr⟩

/-- An instruction that writes one register and no flag is this law at the value it writes. -/
theorem exec_setV_of_eq {i : Instr} {x : Reg} {b : Byte} {s : State}
    (h : exec i s = .next (s.setV x b)) :
    ∃ t, exec i s = .next t ∧ t.readV x = b ∧ OnlyV x s t :=
  ⟨_, h, State.readV_setV_self s x b, onlyV_setV s x b⟩

/-- The same law read bit by bit, for a value known by its bits. -/
theorem exec_setV_bits_of_eq {i : Instr} {x : Reg} {b : Byte} {s : State} {bit : Nat → Bool}
    (h : exec i s = .next (s.setV x b)) (hbit : ∀ k, b.getLsbD k = bit k) :
    ∃ t, exec i s = .next t ∧ OnlyV x s t ∧ ∀ k, (t.readV x).getLsbD k = bit k := by
  obtain ⟨t, ht, hval, honly⟩ := exec_setV_of_eq h
  exact ⟨t, ht, honly, fun k => hval ▸ hbit k⟩

/-- Settles O17: both are the register write, and the sum of two bytes is taken modulo 256. -/
theorem immediateLoadAndAdd : Obligations.ImmediateLoadAndAdd := by
  intro x nn s
  obtain ⟨t, ht, hval, honly⟩ := exec_setV_of_eq (exec_addImm x nn s)
  have hsum : (t.readV x).toNat = ((s.readV x).toNat + nn.toNat) % 256 := by
    rw [hval]
    exact BitVec.toNat_add (s.readV x) nn
  exact ⟨exec_setV_of_eq (exec_ldImm x nn s), t, ht, hsum, honly⟩

/-- Settles O18: the copy is the register write, and the logic instructions are its reading bit by bit. -/
theorem copyAndLogic : Obligations.CopyAndLogic := fun x y s =>
  ⟨exec_setV_of_eq (exec_ldReg x y s),
    exec_setV_bits_of_eq (exec_orReg x y s) fun _ => BitVec.getLsbD_or,
    exec_setV_bits_of_eq (exec_andReg x y s) fun _ => BitVec.getLsbD_and,
    exec_setV_bits_of_eq (exec_xorReg x y s) fun _ => BitVec.getLsbD_xor⟩

end Sys2Proof
end

section
/-! The index register (spec/42_index_memory.md R161): the load, as an instance of one law of the write to I. -/

namespace Sys2Proof

open Sys2Proof.Machine Sys2Proof.Safety

theorem exec_ldI (nnn : Addr12) (s : State) : exec (.ldI nnn) s = .next (s.setI (zextNNN nnn)) := rfl

theorem onlyI_setI (s : State) (w : Word) : OnlyI s (s.setI w) := rfl

/-- An instruction that writes I and nothing else is this law at the value it writes. -/
theorem exec_setI_of_eq {i : Instr} {w : Word} {n : Nat} {s : State}
    (h : exec i s = .next (s.setI w)) (hw : w.toNat = n) :
    ∃ t, exec i s = .next t ∧ t.i.toNat = n ∧ OnlyI s t :=
  ⟨_, h, (congrArg BitVec.toNat (State.setI_i s w)).trans hw, onlyI_setI s w⟩

/-- Settles O24: the address has 12 bits, so I takes its value as it is, with bits 15:12 zero. -/
theorem loadIndexSetsI : Obligations.LoadIndexSetsI := fun nnn s =>
  exec_setI_of_eq (exec_ldI nnn s) (zextNNN_toNat nnn)

end Sys2Proof
end

section
/-! The display clear (spec/43_display.md R181): 00E0 is the one word that decodes to CLS, and CLS blanks
every pixel whatever the display held. -/

namespace Sys2Proof

open Sys2Proof.Machine

/-! ### The word of CLS -/

theorem decodeWord_of_fieldF_zero {op : Word} (hF : fieldF op = 0) : decodeWord op = decodeFamily0 op :=
  if_pos hF

theorem decodeFamily0_eq_cls_iff (op : Word) : decodeFamily0 op = .cls ↔ op = 0x00E0 := by
  unfold decodeFamily0
  split_ifs with hcls hret
  · exact iff_of_true rfl hcls
  · exact iff_of_false not_false hcls
  · exact iff_of_false not_false hcls

/-! A chain of conditions is CLS only where one of its branches is (`ite_eq_iff`); the branches of the
sub-dispatches are other constructors. -/

theorem decodeFamily8_ne_cls (op : Word) : decodeFamily8 op ≠ .cls := by
  simp [decodeFamily8, ite_eq_iff]

theorem decodeFamilyE_ne_cls (op : Word) : decodeFamilyE op ≠ .cls := by
  simp [decodeFamilyE, ite_eq_iff]

theorem decodeFamilyF_ne_cls (op : Word) : decodeFamilyF op ≠ .cls := by
  simp [decodeFamilyF, ite_eq_iff]

/-- CLS stands in family 0 alone: each other branch of the dispatch is another constructor or one of the
sub-dispatches above. -/
theorem decodeWord_ne_cls_of_fieldF_ne_zero {op : Word} (hF : fieldF op ≠ 0) :
    decodeWord op ≠ .cls := by
  rw [decodeWord, if_neg hF]
  simp [ite_eq_iff, decodeFamily8_ne_cls, decodeFamilyE_ne_cls, decodeFamilyF_ne_cls]

/-- The whole word is matched: family 0 decides, and no other family holds CLS (R97). -/
theorem decodeWord_eq_cls_iff (op : Word) : decodeWord op = .cls ↔ op = 0x00E0 := by
  by_cases hF : fieldF op = 0
  · rw [decodeWord_of_fieldF_zero hF, decodeFamily0_eq_cls_iff]
  · have hne : op ≠ 0x00E0 := by
      rintro rfl
      exact hF rfl
    exact iff_of_false (decodeWord_ne_cls_of_fieldF_ne_zero hF) hne

/-! ### What CLS does -/

theorem exec_cls (s : State) : exec .cls s = .next ((s.setFb blankFb).setDirty true) := rfl

/-- Settles O32: the whole-word match of family 0, and the blank framebuffer pixel by pixel. -/
theorem clearBlanksAndMarksDirty : Obligations.ClearBlanksAndMarksDirty := by
  constructor
  · exact decodeWord_eq_cls_iff
  · intro s
    exact ⟨_, exec_cls s, fun y x _ _ => pixel_blankFb y x, State.setDirty_dirty _ _, rfl⟩

end Sys2Proof
end

section
/-! The timers (spec/44_input_timers.md R195 to R197): the read is the register write, and each of the two
writes replaces one timer and nothing else. -/

namespace Sys2Proof

open Sys2Proof.Machine Sys2Proof.Safety

theorem exec_ldVxDt (x : Reg) (s : State) : exec (.ldVxDt x) s = .next (s.setV x s.dt) := rfl

theorem exec_ldDtVx (x : Reg) (s : State) : exec (.ldDtVx x) s = .next (s.setDt (s.readV x)) := rfl

theorem exec_ldStVx (x : Reg) (s : State) : exec (.ldStVx x) s = .next (s.setSt (s.readV x)) := rfl

theorem soundActive_iff (s : State) : s.soundActive = true ↔ 0 < s.st.toNat := decide_eq_true_iff

/-- The output follows the count written, whatever the old count was (R197, R237). -/
theorem soundActive_setSt_iff (s : State) (b : Byte) :
    (s.setSt b).soundActive = true ↔ 0 < b.toNat := by
  rw [soundActive_iff, State.setSt_st]

/-- Settles O40: FX07 is the law of the register write at DT; FX15 and FX18 are the writes of DT and ST. -/
theorem timerReadsAndWrites : Obligations.TimerReadsAndWrites := by
  intro x s
  refine ⟨exec_setV_of_eq (exec_ldVxDt x s), ⟨_, exec_ldDtVx x s, ?_, ?_⟩,
    ⟨_, exec_ldStVx x s, ?_, ?_, ?_⟩⟩
  · exact State.setDt_dt s _
  · rfl
  · exact State.setSt_st s _
  · rfl
  · exact soundActive_setSt_iff s _

end Sys2Proof
end

section
/-! The unrecognized words (spec/45_unrecognized.md R211). A row of the selection table asks for fields of
the word, and each branch of the decoder that is not the no-op is guarded by the fields of a row: where no
row selects the word, every such branch is refused and the no-op is left. -/

namespace Sys2Proof

open Sys2Proof.Machine Sys2Proof.Safety

/-! ### A word that no row selects decodes to the no-op -/

section

variable {op : Word} (h : ∀ r ∈ opcodeTable, r.selects op = false)
include h

theorem ne_of_unselected {w : Word} (hr : ⟨0xFFFF, w⟩ ∈ opcodeTable) : op ≠ w := fun hop =>
  absurd ((selects_FFFF_iff w op).trans (decide_eq_true hop)) (Bool.eq_false_iff.1 (h _ hr))

theorem fieldF_ne_of_unselected {f : Nibble} (hr : ⟨0xF000, packNNN f 0⟩ ∈ opcodeTable) :
    fieldF op ≠ f := fun hF =>
  absurd (Laws.EncodeRow.selects_F000 (by rw [hF])) (Bool.eq_false_iff.1 (h _ hr))

theorem fieldN_ne_of_unselected {f n : Nibble} (hF : fieldF op = f)
    (hr : ⟨0xF00F, packXYN f 0 0 n⟩ ∈ opcodeTable) : fieldN op ≠ n := fun hN =>
  absurd (Laws.EncodeRow.selects_F00F (by rw [hF, hN])) (Bool.eq_false_iff.1 (h _ hr))

theorem fieldNN_ne_of_unselected {f : Nibble} {nn : Byte} (hF : fieldF op = f)
    (hr : ⟨0xF0FF, packXNN f 0 nn⟩ ∈ opcodeTable) : fieldNN op ≠ nn := fun hNN =>
  absurd (Laws.EncodeRow.selects_F0FF (by rw [hF, hNN])) (Bool.eq_false_iff.1 (h _ hr))

theorem decodeFamily0_of_unselected : decodeFamily0 op = .nop op := by
  unfold decodeFamily0
  iterate 2 refine (if_neg (ne_of_unselected h (by decide))).trans ?_
  rfl

theorem decodeFamily8_of_unselected (hF : fieldF op = 0x8) : decodeFamily8 op = .nop op := by
  unfold decodeFamily8
  iterate 9 refine (if_neg (fieldN_ne_of_unselected h hF (by decide))).trans ?_
  rfl

theorem decodeFamilyE_of_unselected (hF : fieldF op = 0xE) : decodeFamilyE op = .nop op := by
  unfold decodeFamilyE
  iterate 2 refine (if_neg (fieldNN_ne_of_unselected h hF (by decide))).trans ?_
  rfl

theorem decodeFamilyF_of_unselected (hF : fieldF op = 0xF) : decodeFamilyF op = .nop op := by
  unfold decodeFamilyF
  iterate 9 refine (if_neg (fieldNN_ne_of_unselected h hF (by decide))).trans ?_
  rfl

/-- The other ten families are one row each, which selects every word of the family (R96). -/
theorem fieldF_of_unselected : fieldF op = 0x0 ∨ fieldF op = 0x5 ∨ fieldF op = 0x8 ∨
    fieldF op = 0x9 ∨ fieldF op = 0xE ∨ fieldF op = 0xF := by
  have hfamily : ∀ f : Nibble, ⟨0xF000, packNNN f 0⟩ ∈ opcodeTable ∨
      f = 0x0 ∨ f = 0x5 ∨ f = 0x8 ∨ f = 0x9 ∨ f = 0xE ∨ f = 0xF := by decide
  exact (hfamily (fieldF op)).resolve_left fun hr => fieldF_ne_of_unselected h hr rfl

theorem decodeWord_of_unselected : decodeWord op = .nop op := by
  obtain hF | hF | hF | hF | hF | hF := fieldF_of_unselected h
  · exact (decodeWord_of_fieldF_zero hF).trans (decodeFamily0_of_unselected h)
  · exact decodeWord_malformed_skip (.inl hF) (fieldN_ne_of_unselected h hF (by decide))
  · simpa [decodeWord, hF] using decodeFamily8_of_unselected h hF
  · exact decodeWord_malformed_skip (.inr hF) (fieldN_ne_of_unselected h hF (by decide))
  · simpa [decodeWord, hF] using decodeFamilyE_of_unselected h hF
  · simpa [decodeWord, hF] using decodeFamilyF_of_unselected h hF

end

/-! ### The step of a no-op is the fetch-ahead -/

theorem onlyPc_fetchAhead (s : State) : OnlyPc s s.fetchAhead := onlyPc_setPc s _

/-- PC does not wrap: a fetch that succeeds has PC at 4094 at most (R226). -/
theorem fetchAhead_pc_toNat_of_fetch {s : State} {op : Word} (hf : s.fetch = some op) :
    s.fetchAhead.pc.toNat = s.pc.toNat + 2 := by
  have hbound := State.fetch_some_bound hf
  have hsum : s.fetchAhead.pc.toNat = (s.pc.toNat + 2) % 65536 := BitVec.toNat_add s.pc 2
  omega

theorem step_of_unselected {op : Word} {s : State} (h : ∀ r ∈ opcodeTable, r.selects op = false)
    (hen : s.enabled = true) (hf : s.fetch = some op) : step s = .next s.fetchAhead := by
  have hdec : s.fetch.map decodeWord = some (.nop op) := by
    rw [hf, Option.map_some, decodeWord_of_unselected h]
  rw [step_fetched hen hdec, exec_nop]

/-- Settles O41: the word decodes to the no-op, so the fetch-ahead is all that the step does. -/
theorem unrecognizedWordOnlyAdvancesPc : Obligations.UnrecognizedWordOnlyAdvancesPc := by
  constructor
  · exact exec_nop
  · intro op s h hrun hfault hf
    have hen : s.enabled = true := (State.enabled_iff s).2 ⟨hrun, hfault⟩
    exact ⟨_, step_of_unselected h hen hf, fetchAhead_pc_toNat_of_fetch hf, onlyPc_fetchAhead s⟩

end Sys2Proof
end

section
/-! The host's writes of the keypad latch and of DIRTY (spec/60_exceptions.md R238, R240): each of the two
events is one write of the state, and the write replaces its own field and no other. -/

namespace Sys2Proof

open Sys2Proof.Machine

theorem hostEvent_refreshKeys (p : Params) (k : Vector Bool Config.numKeys) (s : State) :
    hostEvent p (.refreshKeys k) s = s.setKeys k := rfl

theorem hostEvent_clearDirty (p : Params) (s : State) :
    hostEvent p .clearDirty s = s.setDirty false := rfl

theorem setKeys_eq_update (s : State) (k : Vector Bool Config.numKeys) :
    s.setKeys k = { s with keys := k } := rfl

theorem setDirty_eq_update (s : State) (b : Bool) : s.setDirty b = { s with dirty := b } := rfl

/-- Settles O43: RefreshKeys is the write of the latch and ClearDirty the write of DIRTY at false. -/
theorem refreshKeysAndClearDirty : Obligations.RefreshKeysAndClearDirty := fun p k s =>
  ⟨(hostEvent_refreshKeys p k s).trans (setKeys_eq_update s k),
    (hostEvent_clearDirty p s).trans (setDirty_eq_update s false)⟩

end Sys2Proof
end

section
/-! The decoder against the encoder and the selection table (spec/30_encoding.md R91, R96 to R100). The one
idea: a word that a row of the table selects is the encoding of an instruction of that row, so what the
decoder does with it is known from decoding an encoding. -/

namespace Sys2Proof

/-! ### The sub-dispatches -/

theorem decodeWord_of_fieldF_eight {op : Word} (hF : fieldF op = 0x8) :
    decodeWord op = decodeFamily8 op := by
  simp [decodeWord, hF]

theorem decodeWord_of_fieldF_fourteen {op : Word} (hF : fieldF op = 0xE) :
    decodeWord op = decodeFamilyE op := by
  simp [decodeWord, hF]

theorem decodeWord_of_fieldF_fifteen {op : Word} (hF : fieldF op = 0xF) :
    decodeWord op = decodeFamilyF op := by
  simp [decodeWord, hF]

/-! ### Decoding an encoding -/

theorem decodeWord_of_unrecognized {op : Word} (h : unrecognized op = true) :
    decodeWord op = .nop op :=
  decodeWord_of_unselected ((unrecognized_iff op).1 h)

/-- The families with a sub-dispatch are decoded in two steps; elsewhere the fields of the encoding decide
at once. -/
theorem decodeWord_encode {i : Instr} (h : i.wf = true) : decodeWord (encode i) = i := by
  cases i with
  | nop op => exact decodeWord_of_unrecognized h
  | cls | ret => decide
  | ldReg | orReg | andReg | xorReg | addReg | subReg | shr | subnReg | shl =>
    refine (decodeWord_of_fieldF_eight (fieldF_packXYN _ _ _ _)).trans ?_
    simp [decodeFamily8]
  | skp | sknp =>
    refine (decodeWord_of_fieldF_fourteen (fieldF_packXNN _ _ _)).trans ?_
    simp [decodeFamilyE]
  | ldVxDt | ldVxK | ldDtVx | ldStVx | addI | ldF | ldB | stRegs | ldRegs =>
    refine (decodeWord_of_fieldF_fifteen (fieldF_packXNN _ _ _)).trans ?_
    simp [decodeFamilyF]
  | _ => simp [encode, decodeWord]

/-- Settles O2: the fields of the encoding are the operands, and a no-op carries an unrecognized word. -/
theorem decodeOfEncodeIsTheInstruction : Obligations.DecodeOfEncodeIsTheInstruction := fun _ h =>
  decodeWord_encode h

/-! ### A selected word is put together from the bits of its row and its own operands -/

section

variable {op bits : Word} {f : Nibble}

theorem fieldF_of_selects_F000 (hbits : fieldF bits = f) (h : Row.selects ⟨0xF000, bits⟩ op = true) :
    fieldF op = f := by
  rw [selects_F000_iff, decide_eq_true_eq] at h
  rw [← hbits, ← h, fieldF_packNNN]

theorem packNNN_of_selects (hbits : fieldF bits = f) (h : Row.selects ⟨0xF000, bits⟩ op = true) :
    packNNN f (fieldNNN op) = op := by
  rw [← fieldF_of_selects_F000 hbits h, packNNN_fields]

theorem packXNN_of_selects (hbits : fieldF bits = f) (h : Row.selects ⟨0xF000, bits⟩ op = true) :
    packXNN f (fieldX op) (fieldNN op) = op := by
  rw [← fieldF_of_selects_F000 hbits h, packXNN_fields]

theorem packXYN_of_selects (hbits : fieldF bits = f) (h : Row.selects ⟨0xF000, bits⟩ op = true) :
    packXYN f (fieldX op) (fieldY op) (fieldN op) = op := by
  rw [← fieldF_of_selects_F000 hbits h, packXYN_fields]

theorem packXY_of_selects {n : Nibble} (hF : fieldF bits = f) (hN : fieldN bits = n)
    (h : Row.selects ⟨0xF00F, bits⟩ op = true) : packXYN f (fieldX op) (fieldY op) n = op := by
  rw [selects_F00F_iff, decide_eq_true_eq] at h
  rw [← hF, ← hN, ← h, fieldF_packXYN, fieldN_packXYN, packXYN_fields]

theorem packX_of_selects {nn : Byte} (hF : fieldF bits = f) (hNN : fieldNN bits = nn)
    (h : Row.selects ⟨0xF0FF, bits⟩ op = true) : packXNN f (fieldX op) nn = op := by
  rw [selects_F0FF_iff, decide_eq_true_eq] at h
  rw [← hF, ← hNN, ← h, fieldF_packXNN, fieldNN_packXNN, packXNN_fields]

theorem eq_of_selects_FFFF (h : Row.selects ⟨0xFFFF, bits⟩ op = true) : bits = op := by
  rw [selects_FFFF_iff, decide_eq_true_eq] at h
  exact h.symm

end

/-- Row by row (R96): the instruction is the row's own, with the fields of the word as its operands. -/
theorem exists_encode_of_selects {op : Word} : ∀ r ∈ opcodeTable, r.selects op = true →
    ∃ i : Instr, i.wf = true ∧ i.row = r ∧ encode i = op := by
  simp only [opcodeTable, List.forall_mem_cons]
  exact
    ⟨fun h => ⟨.cls, rfl, rfl, eq_of_selects_FFFF h⟩,
      fun h => ⟨.ret, rfl, rfl, eq_of_selects_FFFF h⟩,
      fun h => ⟨.jp _, rfl, rfl, packNNN_of_selects rfl h⟩,
      fun h => ⟨.call _, rfl, rfl, packNNN_of_selects rfl h⟩,
      fun h => ⟨.seImm _ _, rfl, rfl, packXNN_of_selects rfl h⟩,
      fun h => ⟨.sneImm _ _, rfl, rfl, packXNN_of_selects rfl h⟩,
      fun h => ⟨.seReg _ _, rfl, rfl, packXY_of_selects rfl rfl h⟩,
      fun h => ⟨.ldImm _ _, rfl, rfl, packXNN_of_selects rfl h⟩,
      fun h => ⟨.addImm _ _, rfl, rfl, packXNN_of_selects rfl h⟩,
      fun h => ⟨.ldReg _ _, rfl, rfl, packXY_of_selects rfl rfl h⟩,
      fun h => ⟨.orReg _ _, rfl, rfl, packXY_of_selects rfl rfl h⟩,
      fun h => ⟨.andReg _ _, rfl, rfl, packXY_of_selects rfl rfl h⟩,
      fun h => ⟨.xorReg _ _, rfl, rfl, packXY_of_selects rfl rfl h⟩,
      fun h => ⟨.addReg _ _, rfl, rfl, packXY_of_selects rfl rfl h⟩,
      fun h => ⟨.subReg _ _, rfl, rfl, packXY_of_selects rfl rfl h⟩,
      fun h => ⟨.shr _ _, rfl, rfl, packXY_of_selects rfl rfl h⟩,
      fun h => ⟨.subnReg _ _, rfl, rfl, packXY_of_selects rfl rfl h⟩,
      fun h => ⟨.shl _ _, rfl, rfl, packXY_of_selects rfl rfl h⟩,
      fun h => ⟨.sneReg _ _, rfl, rfl, packXY_of_selects rfl rfl h⟩,
      fun h => ⟨.ldI _, rfl, rfl, packNNN_of_selects rfl h⟩,
      fun h => ⟨.jpV0 _, rfl, rfl, packNNN_of_selects rfl h⟩,
      fun h => ⟨.rnd _ _, rfl, rfl, packXNN_of_selects rfl h⟩,
      fun h => ⟨.drw _ _ _, rfl, rfl, packXYN_of_selects rfl h⟩,
      fun h => ⟨.skp _, rfl, rfl, packX_of_selects rfl rfl h⟩,
      fun h => ⟨.sknp _, rfl, rfl, packX_of_selects rfl rfl h⟩,
      fun h => ⟨.ldVxDt _, rfl, rfl, packX_of_selects rfl rfl h⟩,
      fun h => ⟨.ldVxK _, rfl, rfl, packX_of_selects rfl rfl h⟩,
      fun h => ⟨.ldDtVx _, rfl, rfl, packX_of_selects rfl rfl h⟩,
      fun h => ⟨.ldStVx _, rfl, rfl, packX_of_selects rfl rfl h⟩,
      fun h => ⟨.addI _, rfl, rfl, packX_of_selects rfl rfl h⟩,
      fun h => ⟨.ldF _, rfl, rfl, packX_of_selects rfl rfl h⟩,
      fun h => ⟨.ldB _, rfl, rfl, packX_of_selects rfl rfl h⟩,
      fun h => ⟨.stRegs _, rfl, rfl, packX_of_selects rfl rfl h⟩,
      fun h => ⟨.ldRegs _, rfl, rfl, packX_of_selects rfl rfl h⟩,
      List.forall_mem_nil _⟩

/-! ### What follows for the decoder -/

/-- Every word is the encoding of a well-formed instruction: of one of the row that selects it, or of the
no-op where no row does. -/
theorem exists_wf_encode (op : Word) : ∃ i : Instr, i.wf = true ∧ encode i = op := by
  by_cases h : ∀ r ∈ opcodeTable, r.selects op = false
  · exact ⟨.nop op, (unrecognized_iff op).2 h, rfl⟩
  · push Not at h
    obtain ⟨r, hr, hsel⟩ := h
    obtain ⟨i, hwf, -, henc⟩ := exists_encode_of_selects r hr (Bool.eq_true_of_not_eq_false hsel)
    exact ⟨i, hwf, henc⟩

theorem row_decodeWord_of_selects {r : Row} {op : Word} (hr : r ∈ opcodeTable)
    (h : r.selects op = true) : (decodeWord op).row = r := by
  obtain ⟨i, hwf, hrow, rfl⟩ := exists_encode_of_selects r hr h
  rw [decodeWord_encode hwf, hrow]

/-- Settles O3: the word is the encoding of a well-formed instruction, and that is what it decodes to. -/
theorem encodeOfDecodeIsTheWord : Obligations.EncodeOfDecodeIsTheWord := by
  intro op
  obtain ⟨i, hwf, rfl⟩ := exists_wf_encode op
  rw [decodeWord_encode hwf]
  exact ⟨hwf, rfl⟩

/-- Settles O4: a row that selects the word is the row of what it decodes to, so there is only one; with
none the word decodes to the no-op. -/
theorem decoderFollowsSelectionTable : Obligations.DecoderFollowsSelectionTable := by
  constructor
  · intro op
    cases hfind : opcodeTable.find? fun r => r.selects op with
    | some r =>
      have hsel : r.selects op = true := List.find?_some (p := fun r : Row => r.selects op) hfind
      exact row_decodeWord_of_selects (List.mem_of_find?_eq_some hfind) hsel
    | none =>
      have hnone : ∀ r ∈ opcodeTable, r.selects op = false := by simpa using hfind
      rw [decodeWord_of_unselected hnone]
      rfl
  · intro r₁ h₁ r₂ h₂ op hsel₁ hsel₂
    rw [← row_decodeWord_of_selects h₁ hsel₁, row_decodeWord_of_selects h₂ hsel₂]

/-! ### The words that decode to the no-op (R97 to R100) -/

/-- A chain of conditions is the no-op where each is refused, the branches being other constructors. -/
theorem decodeFamily0_eq_nop_iff (op : Word) :
    decodeFamily0 op = .nop op ↔ op ≠ 0x00E0 ∧ op ≠ 0x00EE := by
  simp [decodeFamily0, ite_eq_iff]

theorem decodeFamily8_eq_nop_iff (op : Word) : decodeFamily8 op = .nop op ↔
    fieldN op ∈ [0x8, 0x9, 0xA, 0xB, 0xC, 0xD, (0xF : Nibble)] := by
  have hrest : ∀ n : Nibble, n ∈ [0x8, 0x9, 0xA, 0xB, 0xC, 0xD, (0xF : Nibble)] ↔
      n ∉ [0x0, 0x1, 0x2, 0x3, 0x4, 0x5, 0x6, 0x7, (0xE : Nibble)] := by decide
  rw [hrest]
  simp [decodeFamily8, ite_eq_iff]

theorem decodeFamilyE_eq_nop_iff (op : Word) :
    decodeFamilyE op = .nop op ↔ fieldNN op ∉ [0x9E, (0xA1 : Byte)] := by
  simp [decodeFamilyE, ite_eq_iff]

theorem decodeFamilyF_eq_nop_iff (op : Word) : decodeFamilyF op = .nop op ↔
    fieldNN op ∉ [0x07, 0x0A, 0x15, 0x18, 0x1E, 0x29, 0x33, 0x55, (0x65 : Byte)] := by
  simp [decodeFamilyF, ite_eq_iff]

/-- The no-op keeps its word well-formed, so no row selects it. -/
theorem decodeWord_eq_nop_iff (op : Word) :
    decodeWord op = .nop op ↔ ∀ r ∈ opcodeTable, r.selects op = false := by
  refine ⟨fun h => ?_, decodeWord_of_unselected⟩
  obtain ⟨hwf, -⟩ := encodeOfDecodeIsTheWord op
  rw [h] at hwf
  exact (unrecognized_iff op).1 hwf

/-- Settles O5: family by family; each other family is one row, which leaves no no-op. -/
theorem unrecognizedWordsAreTheListed : Obligations.UnrecognizedWordsAreTheListed := by
  intro op
  by_cases hF : fieldF op = 0x0 ∨ fieldF op = 0x5 ∨ fieldF op = 0x8 ∨
    fieldF op = 0x9 ∨ fieldF op = 0xE ∨ fieldF op = 0xF
  · obtain hF | hF | hF | hF | hF | hF := hF
    · rw [decodeWord_of_fieldF_zero hF, decodeFamily0_eq_nop_iff]
      simp [hF]
    · simp [decodeWord, hF]
    · rw [decodeWord_of_fieldF_eight hF, decodeFamily8_eq_nop_iff]
      simp [hF]
    · simp [decodeWord, hF]
    · rw [decodeWord_of_fieldF_fourteen hF, decodeFamilyE_eq_nop_iff]
      simp [hF]
    · rw [decodeWord_of_fieldF_fifteen hF, decodeFamilyF_eq_nop_iff]
      simp [hF]
  · constructor
    · intro h
      exact absurd (fieldF_of_unselected ((decodeWord_eq_nop_iff op).1 h)) hF
    · tauto

/-- Settles O6: seventeen closed words, which the decoder evaluates. -/
theorem sampleWordsDecode : Obligations.SampleWordsDecode := by
  unfold Obligations.SampleWordsDecode
  decide

end Sys2Proof
end

section
/-! What each instruction does, said once: the arms of `exec` that were not stated above, each in the case
in which it completes; the fault of every other case (spec/60_exceptions.md R222, R223); and the frame of
every instruction (spec/10_state.md, the lists of writers). -/

namespace Sys2Proof

open Sys2Proof.Machine Sys2Proof.Safety

/-! ### The arms -/

theorem exec_jpV0 (nnn : Addr12) (s : State) :
    exec (.jpV0 nnn) s = .next (s.setPc (zextByte (s.readV 0) + zextNNN nnn)) := rfl

theorem exec_addI (x : Reg) (s : State) :
    exec (.addI x) s = .next (s.setI (s.i + zextByte (s.readV x))) := rfl

theorem exec_ldF (x : Reg) (s : State) : exec (.ldF x) s = .next (s.setI (glyphAddr (s.readV x))) := rfl

theorem exec_rnd (x : Reg) (nn : Byte) (s : State) : exec (.rnd x nn) s =
    .next ((s.setV x (Config.randomSource s.draws &&& nn)).setDraws (s.draws + 1)) := rfl

theorem exec_call_of_lt (nnn : Addr12) {s : State} (h : s.sp.val < 12) : exec (.call nnn) s =
    .next (((s.setStack ⟨s.sp.val, h⟩ s.pc).setSp ⟨s.sp.val + 1, Nat.succ_lt_succ h⟩).setPc
      (zextNNN nnn)) := by
  have hpush : s.push s.pc =
      some ((s.setStack ⟨s.sp.val, h⟩ s.pc).setSp ⟨s.sp.val + 1, Nat.succ_lt_succ h⟩) := dif_pos h
  simp only [exec, execCall, hpush]

/-- The slot that the next return reads. -/
theorem sp_pred_lt {s : State} (h : 0 < s.sp.val) : s.sp.val - 1 < Config.stackCapacity := by
  have hsp : s.sp.val ≤ 12 := State.sp_le s
  show s.sp.val - 1 < 12
  omega

theorem exec_ret_of_pos {s : State} (h : 0 < s.sp.val) : exec .ret s =
    .next ((s.setSp ⟨s.sp.val - 1, Nat.lt_succ_of_lt (sp_pred_lt h)⟩).setPc
      (s.stack[s.sp.val - 1]'(sp_pred_lt h))) := by
  have hpop : s.pop = some (s.stack[s.sp.val - 1]'(sp_pred_lt h),
      s.setSp ⟨s.sp.val - 1, Nat.lt_succ_of_lt (sp_pred_lt h)⟩) := dif_pos h
  simp only [exec, execRet, hpop]

/-- The n bytes from an address on. -/
def bytesFrom (m : Memory) (a n : Nat) : List Byte := (List.range n).map fun k => m.read (a + k)

theorem bytesFrom_getElem? (m : Memory) (a n k : Nat) :
    (bytesFrom m a n)[k]? = if k < n then some (m.read (a + k)) else none := by
  by_cases h : k < n <;> simp [bytesFrom, h]

/-- The canvas that a sprite leaves: its rows, drawn at V[Y], V[X] on the framebuffer (R182). -/
def drawnCanvas (x y : Reg) (rows : List Byte) (s : State) : Canvas :=
  Canvas.drawRows ⟨s.fb, false⟩ (spriteY (s.readV y)) (spriteX (s.readV x)) rows

theorem exec_drw_of_le (x y : Reg) {n : Nibble} {s : State}
    (h : n.toNat = 0 ∨ s.i.toNat + n.toNat ≤ 4096) : exec (.drw x y n) s =
    .next (((s.setFb (drawnCanvas x y (bytesFrom s.mem s.i.toNat n.toNat) s).fb).setV regF
      (collisionFlag (drawnCanvas x y (bytesFrom s.mem s.i.toNat n.toNat) s).hit)).setDirty true) := by
  have hread : s.readRange s.indexAddr n.toNat = some (bytesFrom s.mem s.i.toNat n.toNat) :=
    State.readRange_some.2 ⟨h, rfl⟩
  simp only [exec, execDrw, hread]
  rfl

theorem exec_ldB_of_le (x : Reg) {s : State} (h : s.i.toNat + 3 ≤ 4096) : exec (.ldB x) s =
    .next (s.setMem (s.mem.writeAll s.i.toNat (decimalDigits (s.readV x)))) := by
  have hwrite : s.writeRange s.indexAddr (decimalDigits (s.readV x)) =
      some (s.setMem (s.mem.writeAll s.i.toNat (decimalDigits (s.readV x)))) :=
    State.writeRange_some.2 ⟨.inr h, rfl⟩
  simp only [exec, execLdB, hwrite]

theorem exec_stRegs_of_le {x : Reg} {s : State} (h : s.i.toNat + x.val ≤ 4095) :
    exec (.stRegs x) s = .next (s.setMem (s.mem.writeAll s.i.toNat (s.regsUpTo x))) := by
  have hwrite : s.writeRange s.indexAddr (s.regsUpTo x) =
      some (s.setMem (s.mem.writeAll s.i.toNat (s.regsUpTo x))) :=
    State.writeRange_some.2 ⟨.inr (by rw [regsUpTo_length, State.indexAddr]; omega), rfl⟩
  simp only [exec, execStRegs, hwrite]

theorem exec_ldRegs_of_le {x : Reg} {s : State} (h : s.i.toNat + x.val ≤ 4095) :
    exec (.ldRegs x) s = .next (s.writeRegs 0 (bytesFrom s.mem s.i.toNat (x.val + 1))) := by
  have hread : s.readRange s.indexAddr (x.val + 1) = some (bytesFrom s.mem s.i.toNat (x.val + 1)) :=
    State.readRange_some.2 ⟨.inr (by rw [State.indexAddr]; omega), rfl⟩
  simp only [exec, execLdRegs, hread]

theorem exec_skp_of_keyOf {x : Reg} {k : Key} {s : State} (h : (s.readV x).toNat = k.val) :
    exec (.skp x) s = .next (s.skipIf (s.keyDown k)) := by
  simp only [exec, execSkp, keyOf_some.2 h]

theorem exec_sknp_of_keyOf {x : Reg} {k : Key} {s : State} (h : (s.readV x).toNat = k.val) :
    exec (.sknp x) s = .next (s.skipIf (!s.keyDown k)) := by
  simp only [exec, execSknp, keyOf_some.2 h]

theorem exec_ldVxK_of_none (x : Reg) {s : State} (h : s.capturedKey = none) :
    exec (.ldVxK x) s = .next s.captureKey.stall := by
  simp only [exec, execLdVxK, h]

theorem exec_ldVxK_of_down (x : Reg) {k : Key} {s : State} (h : s.capturedKey = some k)
    (hk : s.keyDown k = true) : exec (.ldVxK x) s = .next s.stall := by
  simp only [exec, execLdVxK, h, hk, if_true]

theorem exec_ldVxK_of_up (x : Reg) {k : Key} {s : State} (h : s.capturedKey = some k)
    (hk : s.keyDown k = false) : exec (.ldVxK x) s =
    .next (((s.setV x (byteOfKey k)).setCapturedKey none).setAwaitingKey false) := by
  simp only [exec, execLdVxK, h, hk, Bool.false_eq_true, if_false]

/-! ### The faults -/

theorem raiseFault_eq (c : FaultCode) (s : State) : raiseFault c s = .next (faultedState s c) := rfl

theorem cause_of_ite_eq_some {P : Prop} [Decidable P] {c d : FaultCode}
    (h : (if P then some c else none) = some d) : P ∧ c = d := by
  simpa using h

theorem not_of_ite_eq_none {P : Prop} [Decidable P] {c : FaultCode}
    (h : (if P then some c else none) = none) : ¬ P := fun hP =>
  nomatch ite_eq_right_iff.1 h hP

/-- Where the table of causes lists a fault the instruction takes it (R222, R223). -/
theorem exec_of_faultOf {i : Instr} {s : State} {c : FaultCode} (h : faultOf i s = some c) :
    exec i s = .next (faultedState s c) := by
  cases i with
  | call nnn =>
    obtain ⟨hsp, rfl⟩ := cause_of_ite_eq_some h
    simp only [exec, execCall, State.push_none.2 hsp, raiseFault_eq]
  | ret =>
    obtain ⟨hsp, rfl⟩ := cause_of_ite_eq_some h
    simp only [exec, execRet, State.pop_none.2 hsp, raiseFault_eq]
  | ldB x =>
    obtain ⟨hi, rfl⟩ := cause_of_ite_eq_some h
    have hwrite : s.writeRange s.indexAddr (decimalDigits (s.readV x)) = none :=
      State.writeRange_none.2 ⟨by simp [decimalDigits], by simp [decimalDigits, State.indexAddr]; omega⟩
    simp only [exec, execLdB, hwrite, raiseFault_eq]
  | stRegs x =>
    obtain ⟨hi, rfl⟩ := cause_of_ite_eq_some h
    have hwrite : s.writeRange s.indexAddr (s.regsUpTo x) = none :=
      State.writeRange_none.2 (by rw [regsUpTo_length, State.indexAddr]; omega)
    simp only [exec, execStRegs, hwrite, raiseFault_eq]
  | ldRegs x =>
    obtain ⟨hi, rfl⟩ := cause_of_ite_eq_some h
    have hread : s.readRange s.indexAddr (x.val + 1) = none :=
      State.readRange_none.2 (by rw [State.indexAddr]; omega)
    simp only [exec, execLdRegs, hread, raiseFault_eq]
  | drw x y n =>
    obtain ⟨hi, rfl⟩ := cause_of_ite_eq_some h
    have hread : s.readRange s.indexAddr n.toNat = none :=
      State.readRange_none.2 (by rw [State.indexAddr]; omega)
    simp only [exec, execDrw, hread, raiseFault_eq]
  | skp x =>
    obtain ⟨hx, rfl⟩ := cause_of_ite_eq_some h
    simp only [exec, execSkp, keyOf_none.2 hx, raiseFault_eq]
  | sknp x =>
    obtain ⟨hx, rfl⟩ := cause_of_ite_eq_some h
    simp only [exec, execSknp, keyOf_none.2 hx, raiseFault_eq]
  | _ => cases h

/-! ### The frames -/

/-- Which fields an instruction that completes may change. Registers and memory count as one field
each. -/
def FieldFrame (i : Instr) (s t : State) : Prop :=
  match i with
  | .nop _ => t = s
  | .jp _ | .jpV0 _ | .seImm _ _ | .sneImm _ _ | .seReg _ _ | .sneReg _ _ | .skp _ | .sknp _ =>
    t = { s with pc := t.pc }
  | .call _ => t = { s with pc := t.pc, sp := t.sp, stack := t.stack }
  | .ret => t = { s with pc := t.pc, sp := t.sp }
  | .ldImm _ _ | .addImm _ _ | .ldReg _ _ | .orReg _ _ | .andReg _ _ | .xorReg _ _ | .addReg _ _
  | .subReg _ _ | .shr _ _ | .subnReg _ _ | .shl _ _ | .ldVxDt _ | .ldRegs _ => t = { s with v := t.v }
  | .rnd _ _ => t = { s with v := t.v, draws := t.draws }
  | .ldI _ | .addI _ | .ldF _ => t = { s with i := t.i }
  | .ldB _ | .stRegs _ => t = { s with mem := t.mem }
  | .cls => t = { s with fb := t.fb, dirty := t.dirty }
  | .drw _ _ _ => t = { s with v := t.v, fb := t.fb, dirty := t.dirty }
  | .ldVxK _ =>
    t = { s with v := t.v, pc := t.pc, awaitingKey := t.awaitingKey, capturedKey := t.capturedKey }
  | .ldDtVx _ => t = { s with dt := t.dt }
  | .ldStVx _ => t = { s with st := t.st }

/-- What an instruction that completes leaves alone: every field but its own, and every register that is
neither a destination of it nor the flag of a flag writer. -/
structure Frame (i : Instr) (s t : State) : Prop where
  fields : FieldFrame i s t
  regs : ∀ r, destReg i r = false → (r = regF → writesFlag i = false) → t.readV r = s.readV r

theorem readV_setV_of_not_dest (s : State) {x r : Reg} (b : Byte) (h : decide (r = x) = false) :
    (s.setV x b).readV r = s.readV r :=
  State.readV_setV_ne s b (of_decide_eq_false h)

/-- A flag writer with the flag c and the result b. -/
theorem readV_setV_setV_of_not_dest (s : State) {x r : Reg} (c b : Byte) (h : decide (r = x) = false)
    (hF : r = regF → true = false) : ((s.setV regF c).setV x b).readV r = s.readV r := by
  rw [readV_setV_of_not_dest _ b h, State.readV_setV_ne s c fun e => Bool.noConfusion (hF e)]

theorem readV_writeRegs_of_gt {s : State} {bs : List Byte} {r : Reg} (h : bs.length ≤ r.val) :
    (s.writeRegs 0 bs).readV r = s.readV r := by
  rw [State.readV_writeRegs, if_pos (Nat.zero_le _), List.getElem?_eq_none (by simpa using h)]
  rfl

theorem exists_key_of_le {b : Byte} (h : ¬ b.toNat > 15) : ∃ k : Key, b.toNat = k.val :=
  ⟨⟨b.toNat, by omega⟩, rfl⟩

/-- FX0A stalls or completes, and writes only its destination and its own fields. -/
theorem exec_ldVxK_frame (x : Reg) (s : State) :
    ∃ t, exec (.ldVxK x) s = .next t ∧ Frame (.ldVxK x) s t := by
  cases hc : s.capturedKey with
  | none =>
    refine ⟨_, exec_ldVxK_of_none x hc, ?_, fun r _ _ => ?_⟩
    · rw [State.captureKey_eq]; rfl
    · rw [State.captureKey_eq]; rfl
  | some k =>
    cases hk : s.keyDown k with
    | true => exact ⟨_, exec_ldVxK_of_down x hc hk, rfl, fun _ _ _ => rfl⟩
    | false => exact ⟨_, exec_ldVxK_of_up x hc hk, rfl, fun _ hr _ => readV_setV_of_not_dest s _ hr⟩

/-- A skip writes PC only, whatever its condition. -/
theorem exec_skip_frame {i : Instr} {s : State} {c : Bool} (h : exec i s = .next (s.skipIf c))
    (hpc : ∀ t, OnlyPc s t → FieldFrame i s t) : ∃ t, exec i s = .next t ∧ Frame i s t := by
  refine ⟨_, h, hpc _ (State.skipIf_eq s c), fun r _ _ => ?_⟩
  rw [State.skipIf_eq]
  rfl

/-- Where the table of causes lists no fault the instruction completes inside its frame. -/
theorem exec_frame {i : Instr} {s : State} (h : faultOf i s = none) :
    ∃ t, exec i s = .next t ∧ Frame i s t := by
  cases i with
  | call nnn =>
    have hsp : s.sp.val < 12 := lt_of_le_of_ne (State.sp_le s) (not_of_ite_eq_none h)
    exact ⟨_, exec_call_of_lt nnn hsp, rfl, fun _ _ _ => rfl⟩
  | ret =>
    have hsp : 0 < s.sp.val := Nat.pos_of_ne_zero (not_of_ite_eq_none h)
    exact ⟨_, exec_ret_of_pos hsp, rfl, fun _ _ _ => rfl⟩
  | ldB x =>
    have hi := not_of_ite_eq_none h
    exact ⟨_, exec_ldB_of_le x (by omega), rfl, fun _ _ _ => rfl⟩
  | stRegs x =>
    have hi := not_of_ite_eq_none h
    exact ⟨_, exec_stRegs_of_le (by omega), rfl, fun _ _ _ => rfl⟩
  | ldRegs x =>
    have hi := not_of_ite_eq_none h
    refine ⟨_, exec_ldRegs_of_le (by omega), State.writeRegs_eq s 0 _, fun r hr _ => ?_⟩
    have hlt : x.val < r.val := not_le.1 (of_decide_eq_false hr)
    exact readV_writeRegs_of_gt (by simpa [bytesFrom] using hlt)
  | drw x y n =>
    have hi := not_of_ite_eq_none h
    exact ⟨_, exec_drw_of_le x y (by omega), rfl,
      fun r _ hF => State.readV_setV_ne _ _ fun e => Bool.noConfusion (hF e)⟩
  | skp x =>
    obtain ⟨k, hk⟩ := exists_key_of_le (not_of_ite_eq_none h)
    exact exec_skip_frame (exec_skp_of_keyOf hk) fun _ hpc => hpc
  | sknp x =>
    obtain ⟨k, hk⟩ := exists_key_of_le (not_of_ite_eq_none h)
    exact exec_skip_frame (exec_sknp_of_keyOf hk) fun _ hpc => hpc
  | seImm x nn => exact exec_skip_frame (exec_seImm x nn s) fun _ hpc => hpc
  | sneImm x nn => exact exec_skip_frame (exec_sneImm x nn s) fun _ hpc => hpc
  | seReg x y => exact exec_skip_frame (exec_seReg x y s) fun _ hpc => hpc
  | sneReg x y => exact exec_skip_frame (exec_sneReg x y s) fun _ hpc => hpc
  | ldVxK x => exact exec_ldVxK_frame x s
  | ldImm | addImm | ldReg | orReg | andReg | xorReg | rnd | ldVxDt =>
    exact ⟨_, rfl, rfl, fun _ hr _ => readV_setV_of_not_dest s _ hr⟩
  | addReg | subReg | shr | subnReg | shl =>
    exact ⟨_, rfl, rfl, fun _ hr hF => readV_setV_setV_of_not_dest s _ _ hr hF⟩
  | cls | jp | jpV0 | ldI | addI | ldF | ldDtVx | ldStVx | nop => exact ⟨_, rfl, rfl, fun _ _ _ => rfl⟩

/-- What an instruction can do, said once: it takes the fault listed, or completes inside its frame. -/
theorem exec_cases {i : Instr} {s t : State} (h : exec i s = .next t) :
    (∃ c, faultOf i s = some c ∧ t = faultedState s c) ∨ (faultOf i s = none ∧ Frame i s t) := by
  cases hf : faultOf i s with
  | some c =>
    rw [exec_of_faultOf hf] at h
    cases h
    exact .inl ⟨c, rfl, rfl⟩
  | none =>
    obtain ⟨u, hu, hframe⟩ := exec_frame hf
    rw [hu] at h
    cases h
    exact .inr ⟨rfl, hframe⟩

end Sys2Proof
end

section
/-! What holds of every instruction (spec/60_exceptions.md R220 to R233, spec/10_state.md): read off the
inversion `exec_cases`, one field at a time. -/

namespace Sys2Proof

open Sys2Proof.Machine Sys2Proof.Safety

/-! ### Every action answers a state -/

theorem exec_total (i : Instr) (s : State) : ∃ t, exec i s = .next t := by
  cases hf : faultOf i s with
  | some c => exact ⟨_, exec_of_faultOf hf⟩
  | none =>
    obtain ⟨t, ht, -⟩ := exec_frame hf
    exact ⟨t, ht⟩

theorem step_of_fetch_none {s : State} (hen : s.enabled = true) (hf : s.fetch = none) :
    step s = .next (faultedState s .addressRange) := by
  rw [step_enabled hen, hf]
  rfl

theorem step_of_fetch_some {s : State} {op : Word} (hen : s.enabled = true) (hf : s.fetch = some op) :
    step s = exec (decodeWord op) s.fetchAhead := by
  rw [step_enabled hen, hf]

theorem step_total (s : State) : ∃ t, step s = .next t := by
  cases hen : s.enabled with
  | false => exact ⟨s, step_disabled hen⟩
  | true =>
    cases hf : s.fetch with
    | none => exact ⟨_, step_of_fetch_none hen hf⟩
    | some op =>
      rw [step_of_fetch_some hen hf]
      exact exec_total _ _

/-- Settles O9: a step that is not enabled answers the state it was asked in, a fetch fault the faulted
state, and every instruction some state; a host event always answers. -/
theorem everyActionAnswersAState : Obligations.EveryActionAnswersAState := by
  intro p a s
  cases a with
  | step => exact step_total s
  | host e => exact ⟨_, rfl⟩

/-! ### Faults -/

theorem Frame.fault_eq {i : Instr} {s t : State} (h : Frame i s t) : t.fault = s.fault := by
  obtain ⟨h, -⟩ := h
  cases i <;> exact (congrArg State.fault h :)

theorem Frame.runState_eq {i : Instr} {s t : State} (h : Frame i s t) : t.runState = s.runState := by
  obtain ⟨h, -⟩ := h
  cases i <;> exact (congrArg State.runState h :)

/-- Settles O53: the listed faults are taken, and FAULT and RUN_STATE are in no frame. -/
theorem faultsAreExactlyTheListed : Obligations.FaultsAreExactlyTheListed := by
  intro i s
  refine ⟨fun c => exec_of_faultOf, fun h => ?_⟩
  obtain ⟨t, ht, hframe⟩ := exec_frame h
  exact ⟨t, ht, hframe.fault_eq, hframe.runState_eq⟩

/-- Settles O54: an instruction that raises no fault leaves FAULT and RUN_STATE, which enable the step. -/
theorem safeStepStaysEnabled : Obligations.SafeStepStaysEnabled := by
  rintro s ⟨hen, op, hf, hnone⟩
  obtain ⟨t, ht, hframe⟩ := exec_frame hnone
  obtain ⟨hrun, hfault⟩ := (State.enabled_iff s).1 hen
  exact ⟨t, (step_of_fetch_some hen hf).trans ht, (State.enabled_iff t).2
    ⟨hframe.runState_eq.trans hrun, hframe.fault_eq.trans hfault⟩⟩

/-! ### Who writes a field

In each lemma the named cases are the writers; in every other case the field stands in no frame. -/

section

variable {i : Instr} {s t : State} (h : Frame i s t)
include h

theorem Frame.keys_eq : t.keys = s.keys := by
  obtain ⟨h, -⟩ := h
  cases i <;> exact (congrArg State.keys h :)

theorem Frame.i_eq_or : t.i = s.i ∨ ∃ x nnn, i = .ldI nnn ∨ i = .addI x ∨ i = .ldF x := by
  obtain ⟨h, -⟩ := h
  cases i with
  | ldI nnn => exact .inr ⟨0, nnn, .inl rfl⟩
  | addI x => exact .inr ⟨x, 0, .inr (.inl rfl)⟩
  | ldF x => exact .inr ⟨x, 0, .inr (.inr rfl)⟩
  | _ => exact .inl (congrArg State.i h :)

theorem Frame.dt_eq_or : t.dt = s.dt ∨ ∃ x, i = .ldDtVx x := by
  obtain ⟨h, -⟩ := h
  cases i with
  | ldDtVx x => exact .inr ⟨x, rfl⟩
  | _ => exact .inl (congrArg State.dt h :)

theorem Frame.st_eq_or : t.st = s.st ∨ ∃ x, i = .ldStVx x := by
  obtain ⟨h, -⟩ := h
  cases i with
  | ldStVx x => exact .inr ⟨x, rfl⟩
  | _ => exact .inl (congrArg State.st h :)

theorem Frame.stack_eq_or : t.stack = s.stack ∨ ∃ nnn, i = .call nnn := by
  obtain ⟨h, -⟩ := h
  cases i with
  | call nnn => exact .inr ⟨nnn, rfl⟩
  | _ => exact .inl (congrArg State.stack h :)

theorem Frame.sp_eq_or : t.sp = s.sp ∨ i = .ret ∨ ∃ nnn, i = .call nnn := by
  obtain ⟨h, -⟩ := h
  cases i with
  | ret => exact .inr (.inl rfl)
  | call nnn => exact .inr (.inr ⟨nnn, rfl⟩)
  | _ => exact .inl (congrArg State.sp h :)

theorem Frame.fb_dirty_eq_or :
    (t.fb, t.dirty) = (s.fb, s.dirty) ∨ i = .cls ∨ ∃ x y n, i = .drw x y n := by
  obtain ⟨h, -⟩ := h
  cases i with
  | cls => exact .inr (.inl rfl)
  | drw x y n => exact .inr (.inr ⟨x, y, n, rfl⟩)
  | _ => exact .inl (congrArg (fun u : State => (u.fb, u.dirty)) h :)

theorem Frame.keyWait_eq_or :
    (t.awaitingKey, t.capturedKey) = (s.awaitingKey, s.capturedKey) ∨ ∃ x, i = .ldVxK x := by
  obtain ⟨h, -⟩ := h
  cases i with
  | ldVxK x => exact .inr ⟨x, rfl⟩
  | _ => exact .inl (congrArg (fun u : State => (u.awaitingKey, u.capturedKey)) h :)

theorem Frame.mem_eq_or : t.mem = s.mem ∨ ∃ x, i = .ldB x ∨ i = .stRegs x := by
  obtain ⟨h, -⟩ := h
  cases i with
  | ldB x => exact .inr ⟨x, .inl rfl⟩
  | stRegs x => exact .inr ⟨x, .inr rfl⟩
  | _ => exact .inl (congrArg State.mem h :)

theorem Frame.draws_eq_or : t.draws = s.draws ∨ ∃ x nn, i = .rnd x nn := by
  obtain ⟨h, -⟩ := h
  cases i with
  | rnd x nn => exact .inr ⟨x, nn, rfl⟩
  | _ => exact .inl (congrArg State.draws h :)

theorem Frame.pc_eq_or : t.pc = s.pc ∨
    i = .ret ∨ (∃ nnn, i = .jp nnn ∨ i = .call nnn ∨ i = .jpV0 nnn) ∨
    (∃ x nn, i = .seImm x nn ∨ i = .sneImm x nn) ∨ (∃ x y, i = .seReg x y ∨ i = .sneReg x y) ∨
    (∃ x, i = .skp x ∨ i = .sknp x ∨ i = .ldVxK x) := by
  obtain ⟨h, -⟩ := h
  cases i with
  | ret | jp | call | jpV0 | seImm | sneImm | seReg | sneReg | skp | sknp | ldVxK => simp
  | _ => exact .inl (congrArg State.pc h :)

end

/-- A field that entering a fault leaves is changed only by the writers that the frames leave open. -/
theorem writer_of_exec {α : Type} {f : State → α} {P : Prop} {i : Instr} {s t : State}
    (h : exec i s = .next t) (hfault : ∀ c, f (faultedState s c) = f s)
    (hframe : Frame i s t → f t = f s ∨ P) (hne : f t ≠ f s) : P := by
  obtain ⟨c, -, rfl⟩ | ⟨-, hfr⟩ := exec_cases h
  · exact absurd (hfault c) hne
  · exact (hframe hfr).resolve_left hne

theorem exec_keys {i : Instr} {s t : State} (h : exec i s = .next t) : t.keys = s.keys := by
  obtain ⟨c, -, rfl⟩ | ⟨-, hfr⟩ := exec_cases h
  · rfl
  · exact hfr.keys_eq

theorem faultOf_ne_none_of_exec {i : Instr} {s t : State} (h : exec i s = .next t)
    (hne : t.fault ≠ s.fault ∨ t.runState ≠ s.runState) : faultOf i s ≠ none := by
  obtain ⟨c, hc, -⟩ | ⟨-, hfr⟩ := exec_cases h
  · rw [hc]
    exact Option.some_ne_none c
  · obtain hfault | hrun := hne
    · exact absurd hfr.fault_eq hfault
    · exact absurd hfr.runState_eq hrun

/-- One of two fields differs exactly when the pair does. -/
theorem pair_ne_of_or {α β : Type} {a c : α} {b d : β} (h : a ≠ c ∨ b ≠ d) : (a, b) ≠ (c, d) := by
  rintro ⟨rfl, rfl⟩
  simp at h

/-- Settles O56: each clause is the list of writers of its field, the fault and the latch apart. -/
theorem onlyListedInstructionsWrite : Obligations.OnlyListedInstructionsWrite := fun _ _ _ h =>
  ⟨exec_keys h,
    writer_of_exec h (fun _ => rfl) Frame.i_eq_or,
    writer_of_exec h (fun _ => rfl) Frame.dt_eq_or,
    writer_of_exec h (fun _ => rfl) Frame.st_eq_or,
    writer_of_exec h (fun _ => rfl) Frame.stack_eq_or,
    writer_of_exec h (fun _ => rfl) Frame.sp_eq_or,
    fun hne => writer_of_exec (f := fun u => (u.fb, u.dirty)) h (fun _ => rfl) Frame.fb_dirty_eq_or
      (pair_ne_of_or hne),
    fun hne => writer_of_exec (f := fun u => (u.awaitingKey, u.capturedKey)) h (fun _ => rfl)
      Frame.keyWait_eq_or (pair_ne_of_or hne),
    writer_of_exec h (fun _ => rfl) Frame.mem_eq_or,
    faultOf_ne_none_of_exec h,
    writer_of_exec h (fun _ => rfl) Frame.draws_eq_or⟩

/-- Settles O57: entering a fault writes no register, and the frame holds the rest. -/
theorem registersChangeOnlyAsDestination : Obligations.RegistersChangeOnlyAsDestination := by
  intro i s t r h hdest hflag
  obtain ⟨c, -, rfl⟩ | ⟨-, hfr⟩ := exec_cases h
  · rfl
  · exact hfr.regs r hdest hflag

/-- Settles O58: PC stands in the frames of the listed instructions only, and entering a fault keeps it. -/
theorem otherInstructionsLeavePc : Obligations.OtherInstructionsLeavePc := fun _ _ _ h =>
  writer_of_exec h (fun _ => rfl) Frame.pc_eq_or

end Sys2Proof
end

section
/-! What no instruction reads (spec/10_state.md R33, R36, R37; spec/60_exceptions.md R231): one law of two
runs, from states that differ in the latch, ST and DIRTY only. -/

namespace Sys2Proof

open Sys2Proof.Machine Sys2Proof.Safety

/-- The state with another latch, sound timer and DIRTY. -/
def withUnread (k : Vector Bool Config.numKeys) (b : Byte) (d : Bool) (s : State) : State :=
  { s with keys := k, st := b, dirty := d }

theorem faultOf_withUnread (i : Instr) (k : Vector Bool Config.numKeys) (b : Byte) (d : Bool)
    (s : State) : faultOf i (withUnread k b d s) = faultOf i s := rfl

/-- The outcome u of the second run is the outcome t of the first, with the new latch and with ST and DIRTY
of its own, which are those of t where the runs started with the same. -/
structure SameButUnread (k : Vector Bool Config.numKeys) (b : Byte) (d : Bool) (s t u : State) : Prop where
  eq : u = withUnread k u.st u.dirty t
  st : b = s.st → u.st = t.st
  dirty : d = s.dirty → u.dirty = t.dirty

/-- FX0A reads the latch, so its two runs have the same one. -/
theorem exec_ldVxK_withUnread (x : Reg) {s t : State} (b : Byte) (d : Bool)
    (h : exec (.ldVxK x) s = .next t) :
    ∃ u, exec (.ldVxK x) (withUnread s.keys b d s) = .next u ∧ SameButUnread s.keys b d s t u := by
  cases hc : s.capturedKey with
  | none =>
    rw [exec_ldVxK_of_none x hc] at h
    cases h
    refine ⟨_, exec_ldVxK_of_none x (s := withUnread s.keys b d s) hc, ?_⟩
    rw [State.captureKey_eq, State.captureKey_eq]
    exact ⟨rfl, id, id⟩
  | some c =>
    cases hk : s.keyDown c with
    | true =>
      rw [exec_ldVxK_of_down x hc hk] at h
      cases h
      exact ⟨_, exec_ldVxK_of_down x (s := withUnread s.keys b d s) hc hk, rfl, id, id⟩
    | false =>
      rw [exec_ldVxK_of_up x hc hk] at h
      cases h
      exact ⟨_, exec_ldVxK_of_up x (s := withUnread s.keys b d s) hc hk, rfl, id, id⟩

section

variable (k : Vector Bool Config.numKeys) (b : Byte) (d : Bool)

theorem skipIf_withUnread (s : State) (c : Bool) :
    SameButUnread k b d s (s.skipIf c) ((withUnread k b d s).skipIf c) := by
  cases c <;> exact ⟨rfl, id, id⟩

theorem writeRegs_withUnread (s : State) (j : Nat) (bs : List Byte) :
    SameButUnread k b d s (s.writeRegs j bs) ((withUnread k b d s).writeRegs j bs) := by
  rw [State.writeRegs_eq (withUnread k b d s), State.writeRegs_eq s,
    State.writeRegs_v_congr (t := withUnread k b d s) (s := s) rfl]
  exact ⟨rfl, id, id⟩

/-- The law of two runs. A fault is the same fault; where none is listed both runs are the same arm. -/
theorem exec_withUnread {i : Instr} {s t : State} (hk : readsKeys i = false ∨ k = s.keys)
    (h : exec i s = .next t) :
    ∃ u, exec i (withUnread k b d s) = .next u ∧ SameButUnread k b d s t u := by
  cases hf : faultOf i s with
  | some c =>
    rw [exec_of_faultOf hf] at h
    cases h
    exact ⟨_, exec_of_faultOf ((faultOf_withUnread i k b d s).trans hf), rfl, id, id⟩
  | none =>
    cases i with
    | call nnn =>
      have hsp : s.sp.val < 12 := lt_of_le_of_ne (State.sp_le s) (not_of_ite_eq_none hf)
      rw [exec_call_of_lt nnn hsp] at h
      cases h
      exact ⟨_, exec_call_of_lt nnn (s := withUnread k b d s) hsp, rfl, id, id⟩
    | ret =>
      have hsp : 0 < s.sp.val := Nat.pos_of_ne_zero (not_of_ite_eq_none hf)
      rw [exec_ret_of_pos hsp] at h
      cases h
      exact ⟨_, exec_ret_of_pos (s := withUnread k b d s) hsp, rfl, id, id⟩
    | ldB x =>
      have hi : s.i.toNat + 3 ≤ 4096 := by
        have hrange := not_of_ite_eq_none hf
        omega
      rw [exec_ldB_of_le x hi] at h
      cases h
      exact ⟨_, exec_ldB_of_le x (s := withUnread k b d s) hi, rfl, id, id⟩
    | stRegs x =>
      have hi : s.i.toNat + x.val ≤ 4095 := not_lt.1 (not_of_ite_eq_none hf)
      rw [exec_stRegs_of_le hi] at h
      cases h
      exact ⟨_, exec_stRegs_of_le (s := withUnread k b d s) hi, rfl, id, id⟩
    | ldRegs x =>
      have hi : s.i.toNat + x.val ≤ 4095 := not_lt.1 (not_of_ite_eq_none hf)
      rw [exec_ldRegs_of_le hi] at h
      cases h
      exact ⟨_, exec_ldRegs_of_le (s := withUnread k b d s) hi, writeRegs_withUnread k b d s 0 _⟩
    | drw x y n =>
      have hi : n.toNat = 0 ∨ s.i.toNat + n.toNat ≤ 4096 := by
        have hrange := not_of_ite_eq_none hf
        omega
      rw [exec_drw_of_le x y hi] at h
      cases h
      exact ⟨_, exec_drw_of_le x y (s := withUnread k b d s) hi, rfl, id, fun _ => rfl⟩
    | skp x =>
      obtain rfl := hk.resolve_left nofun
      obtain ⟨c, hc⟩ := exists_key_of_le (not_of_ite_eq_none hf)
      rw [exec_skp_of_keyOf hc] at h
      cases h
      exact ⟨_, exec_skp_of_keyOf (s := withUnread s.keys b d s) hc, skipIf_withUnread _ b d s _⟩
    | sknp x =>
      obtain rfl := hk.resolve_left nofun
      obtain ⟨c, hc⟩ := exists_key_of_le (not_of_ite_eq_none hf)
      rw [exec_sknp_of_keyOf hc] at h
      cases h
      exact ⟨_, exec_sknp_of_keyOf (s := withUnread s.keys b d s) hc, skipIf_withUnread _ b d s _⟩
    | ldVxK x =>
      obtain rfl := hk.resolve_left nofun
      exact exec_ldVxK_withUnread x b d h
    | seImm | sneImm | seReg | sneReg =>
      cases h
      exact ⟨_, rfl, skipIf_withUnread k b d s _⟩
    | cls =>
      cases h
      exact ⟨_, rfl, rfl, id, fun _ => rfl⟩
    | ldStVx =>
      cases h
      exact ⟨_, rfl, rfl, fun _ => rfl, id⟩
    | _ =>
      cases h
      exact ⟨_, rfl, rfl, id, id⟩

end

/-- Settles O59: the law of two runs with one latch. -/
theorem soundTimerAndDirtyAreNeverRead : Obligations.SoundTimerAndDirtyAreNeverRead := by
  intro i s t b d h
  obtain ⟨u, hu, hsame⟩ := exec_withUnread s.keys b d (.inr rfl) h
  refine ⟨u, hu, ?_⟩
  calc u = withUnread s.keys u.st u.dirty t := hsame.eq
    _ = withUnread t.keys u.st u.dirty t := by rw [exec_keys h]

/-- Settles O60: the law of two runs with one sound timer and one DIRTY. -/
theorem latchReadOnlyByKeyInstructions : Obligations.LatchReadOnlyByKeyInstructions := by
  intro i s t k hk h
  obtain ⟨u, hu, hsame⟩ := exec_withUnread k s.st s.dirty (.inl hk) h
  have hut : u = withUnread k t.st t.dirty t := by
    rw [← hsame.st rfl, ← hsame.dirty rfl]
    exact hsame.eq
  rw [hut] at hu
  exact hu

end Sys2Proof
end

section
/-! The invariant of the Machine (spec/20_memory.md R60, spec/10_state.md R39): what a step and what a host
event does to memory's canonical form and to the key wait. -/

namespace Sys2Proof

open Sys2Proof.Machine Sys2Proof.Safety

/-! ### The step -/

/-- Memory keeps its canonical form: only the two stores write it, inside the address space. -/
theorem mem_wf_of_exec {i : Instr} {s t : State} (h : exec i s = .next t) (hwf : s.mem.wf = true) :
    t.mem.wf = true := by
  obtain ⟨c, -, rfl⟩ | ⟨hnone, hfr⟩ := exec_cases h
  · exact hwf
  · obtain hmem | ⟨x, rfl | rfl⟩ := hfr.mem_eq_or
    · rwa [hmem]
    · have hi := not_of_ite_eq_none hnone
      rw [exec_ldB_of_le x (by omega)] at h
      cases h
      exact Memory.wf_writeAll hwf (show s.i.toNat + 3 ≤ 4096 by omega)
    · have hi := not_of_ite_eq_none hnone
      rw [exec_stRegs_of_le (by omega)] at h
      cases h
      exact Memory.wf_writeAll hwf (by rw [regsUpTo_length]; omega)

/-- Only FX0A writes the key-wait fields. -/
theorem keyWait_of_exec {i : Instr} {s t : State} (h : exec i s = .next t) (hi : ∀ x, i ≠ .ldVxK x) :
    t.awaitingKey = s.awaitingKey ∧ t.capturedKey = s.capturedKey := by
  obtain ⟨c, -, rfl⟩ | ⟨-, hfr⟩ := exec_cases h
  · exact ⟨rfl, rfl⟩
  · obtain hpair | ⟨x, hx⟩ := hfr.keyWait_eq_or
    · exact Prod.mk.inj hpair
    · exact absurd hx (hi x)

/-- The invariant looks at memory, PC and the key-wait fields only. -/
theorem inv_congr {s t : State} (hmem : t.mem = s.mem) (hpc : t.pc = s.pc)
    (haw : t.awaitingKey = s.awaitingKey) (hcap : t.capturedKey = s.capturedKey) (h : Inv s) :
    Inv t := by
  obtain ⟨hwf, hcaptured, hawaiting⟩ := h
  refine ⟨by rwa [hmem], fun hne => ?_, fun hw => ?_⟩
  · rw [haw]
    exact hcaptured (by rwa [← hcap])
  · rw [State.fetch_congr hpc hmem]
    exact hawaiting (by rwa [← haw])

/-- Without a wait the key-wait fields agree. -/
theorem keyWaitOk_of_not_awaiting {s : State} (haw : s.awaitingKey = false)
    (hcap : s.capturedKey = none) : KeyWaitOk s :=
  ⟨fun h => absurd hcap h, fun h => Bool.noConfusion (haw.symm.trans h)⟩

/-- A stall undoes the fetch-ahead, so the FX0A fetched is fetched again. -/
theorem keyWaitOk_stall {s : State} {x : Reg} (hf : s.fetch.map decodeWord = some (.ldVxK x))
    (c : Option Key) : KeyWaitOk (s.fetchAhead.setCapturedKey c).stall := by
  refine ⟨fun _ => rfl, fun _ => ⟨x, ?_⟩⟩
  have hpc : (s.fetchAhead.setCapturedKey c).stall.pc = s.pc := BitVec.add_sub_cancel s.pc 2
  rw [State.fetch_congr hpc rfl, hf]

/-- The step of an FX0A leaves the key wait sound: a stall repeats it and a completion ends it. -/
theorem keyWaitOk_of_exec_ldVxK {s t : State} {x : Reg}
    (hf : s.fetch.map decodeWord = some (.ldVxK x)) (h : exec (.ldVxK x) s.fetchAhead = .next t) :
    KeyWaitOk t := by
  cases hc : s.capturedKey with
  | none =>
    rw [exec_ldVxK_of_none x (s := s.fetchAhead) hc, State.captureKey_eq] at h
    cases h
    exact keyWaitOk_stall hf _
  | some k =>
    cases hk : s.keyDown k with
    | true =>
      rw [exec_ldVxK_of_down x (s := s.fetchAhead) hc hk] at h
      cases h
      exact keyWaitOk_stall hf s.capturedKey
    | false =>
      rw [exec_ldVxK_of_up x (s := s.fetchAhead) hc hk] at h
      cases h
      exact keyWaitOk_of_not_awaiting rfl rfl

/-- While a wait is on, the instruction fetched is an FX0A, so any other finds and leaves no wait. -/
theorem keyWaitOk_of_exec {s t : State} {op : Word} (hf : s.fetch = some op) (hs : KeyWaitOk s)
    (h : exec (decodeWord op) s.fetchAhead = .next t) : KeyWaitOk t := by
  by_cases hi : ∃ x, decodeWord op = .ldVxK x
  · obtain ⟨x, hx⟩ := hi
    exact keyWaitOk_of_exec_ldVxK (by rw [hf, Option.map_some, hx]) (hx ▸ h)
  · obtain ⟨hcaptured, hawaiting⟩ := hs
    have haw : s.awaitingKey = false := by
      refine Bool.eq_false_of_not_eq_true fun hw => hi ?_
      obtain ⟨x, hx⟩ := hawaiting hw
      rw [hf] at hx
      exact ⟨x, Option.some.inj hx⟩
    have hcap : s.capturedKey = none := by
      by_contra hne
      exact Bool.noConfusion (haw.symm.trans (hcaptured hne))
    obtain ⟨htaw, htcap⟩ := keyWait_of_exec h fun x hx => hi ⟨x, hx⟩
    exact keyWaitOk_of_not_awaiting (htaw.trans haw) (htcap.trans hcap)

/-- Settles O50: a disabled step and a fetch fault change none of the invariant's fields; an instruction
keeps memory canonical and the key wait sound. -/
theorem invariantKeptByStep : Obligations.InvariantKeptByStep := by
  intro s t hinv h
  obtain ⟨-, rfl⟩ | ⟨-, -, rfl⟩ | ⟨-, op, hf, hexec⟩ := step_cases h
  · exact hinv
  · exact inv_congr rfl rfl rfl rfl hinv
  · obtain ⟨hwf, hkey⟩ := hinv
    exact ⟨mem_wf_of_exec hexec hwf, keyWaitOk_of_exec hf hkey hexec⟩

/-! ### Reset and the other host events -/

/-- Settles O52: no byte is listed and no wait is on. -/
theorem invariantAtReset : Obligations.InvariantAtReset :=
  ⟨Memory.wf_nil, keyWaitOk_of_not_awaiting rfl rfl⟩

theorem load_of_romLenOk {rom : List Byte} (h : romLenOk rom = true) (p : Params) (s : State) :
    State.load p s rom = { State.reset with
      mem := (fontMem p.font).writeAll Config.programBase rom, draws := s.draws } := by
  rw [State.load_eq, if_pos h]

theorem load_of_not_romLenOk {rom : List Byte} (h : ¬ romLenOk rom = true) (p : Params) (s : State) :
    State.load p s rom = { State.reset with
      mem := fontMem p.font, fault := .romSize, runState := .quit, draws := s.draws } := by
  rw [State.load_eq, if_neg h]

/-- A ROM that is accepted ends inside the address space (R6). -/
theorem rom_end_le {rom : List Byte} (h : romLenOk rom = true) :
    Config.programBase + rom.length ≤ 4096 := by
  have hlen := (romLenOk_iff rom).1 h
  show 0x200 + rom.length ≤ 4096
  omega

theorem load_mem_wf (p : Params) (s : State) (rom : List Byte) : (State.load p s rom).mem.wf = true := by
  by_cases h : romLenOk rom = true
  · rw [load_of_romLenOk h]
    exact Memory.wf_writeAll (fontMem_wf p.font) (rom_end_le h)
  · rw [load_of_not_romLenOk h]
    exact fontMem_wf p.font

theorem inv_load (p : Params) (s : State) (rom : List Byte) : Inv (State.load p s rom) := by
  refine ⟨load_mem_wf p s rom, ?_⟩
  by_cases h : romLenOk rom = true
  · rw [load_of_romLenOk h]
    exact keyWaitOk_of_not_awaiting rfl rfl
  · rw [load_of_not_romLenOk h]
    exact keyWaitOk_of_not_awaiting rfl rfl

/-- Settles O51: Reset starts anew, and the other events write none of the invariant's fields. -/
theorem invariantKeptByHost : Obligations.InvariantKeptByHost := by
  intro p e s hinv
  cases e with
  | reset rom => exact inv_load p s rom
  | refreshKeys | tick | clearDirty | setRunState => exact inv_congr rfl rfl rfl rfl hinv

end Sys2Proof
end

section
/-! The step as a whole (spec/30_encoding.md R94, spec/60_exceptions.md R221, R226) and the host's events
between steps (spec/60_exceptions.md R236 to R245). -/

namespace Sys2Proof

open Sys2Proof.Machine Sys2Proof.Safety

/-! ### The step -/

/-- Settles O7: the two bytes are the word fetched, and the fetch-ahead is the write of PC. -/
theorem stepRunsTheDecodedInstruction : Obligations.StepRunsTheDecodedInstruction := by
  intro s i rest hrun hfault hpc hdec _
  have hi : decodeWord (wordOfBytes (s.mem.read s.pc.toNat) (s.mem.read (s.pc.toNat + 1))) = i := by
    rw [decode_two] at hdec
    cases hdec
    rfl
  rw [step_of_fetch_some ((State.enabled_iff s).2 ⟨hrun, hfault⟩) (State.fetch_eq hpc), hi]
  rfl

theorem step_of_not_enabled {s : State} (h : s.runState ≠ .running ∨ s.fault ≠ .none) :
    step s = .next s := by
  refine step_disabled (Bool.eq_false_of_not_eq_true fun hen => ?_)
  obtain ⟨hrun, hfault⟩ := (State.enabled_iff s).1 hen
  exact h.elim (absurd hrun) (absurd hfault)

/-- Settles O8: the two ways a step runs no instruction. -/
theorem stepFaultsOnFetchOrWaits : Obligations.StepFaultsOnFetchOrWaits :=
  ⟨fun s hrun hfault hpc => step_of_fetch_none ((State.enabled_iff s).2 ⟨hrun, hfault⟩)
    (State.fetch_none hpc), fun _ => step_of_not_enabled⟩

/-! ### The timers and the run state -/

theorem floorDec_toNat (b : Byte) : (floorDec b).toNat = b.toNat - 1 := by
  unfold floorDec
  split
  · next h => simp [h]
  · next h =>
    have hpos : b.toNat ≠ 0 := fun e => h (BitVec.eq_of_toNat_eq e)
    have hsub : (b - 1).toNat = (256 - 1 + b.toNat) % 256 := BitVec.toNat_sub b 1
    omega

/-- Settles O42: each timer is decremented on its own, and no other field is written. -/
theorem tickLowersTimers : Obligations.TickLowersTimers := by
  rintro p s t rfl
  exact ⟨floorDec_toNat s.dt, floorDec_toNat s.st, rfl⟩

theorem setRunState_self {s : State} {r : RunState} (h : s.runState = r) : s.setRunState r = s := by
  subst h
  rfl

/-- Settles O44: the event writes RUN_STATE; a paused or faulted Machine has no step enabled, and setting
RUNNING again gives back the state that was paused. -/
theorem pauseHoldsAndFaultCannotResume : Obligations.PauseHoldsAndFaultCannotResume := by
  refine ⟨fun p r s => rfl, fun p s hrun => ⟨?_, ?_⟩, fun p r s hfault => ?_⟩
  · exact step_of_not_enabled (.inl nofun)
  · exact congrArg step (setRunState_self hrun)
  · exact step_of_not_enabled (.inr hfault)

/-! ### Actions in a row -/

theorem runActions_cons {p : Params} {a : Action} {as : List Action} {s t : State}
    (h : act p a s = .next t) : runActions p (a :: as) s = runActions p as t := by
  simp only [runActions, h]

/-- Actions always complete, and keep what each of them keeps. -/
theorem runActions_keeps {p : Params} {P : State → Prop} {as : List Action}
    (hact : ∀ a ∈ as, ∀ s t, P s → act p a s = .next t → P t) {s : State} (hs : P s) :
    ∃ t, runActions p as s = .next t ∧ P t := by
  induction as generalizing s with
  | nil => exact ⟨s, rfl, hs⟩
  | cons a as ih =>
    obtain ⟨u, hu⟩ := everyActionAnswersAState p a s
    rw [runActions_cons hu]
    exact ih (fun b hb => hact b (List.mem_cons_of_mem a hb)) (hact a List.mem_cons_self s u hs hu)

theorem step_keys {s t : State} (h : step s = .next t) : t.keys = s.keys := by
  obtain ⟨-, rfl⟩ | ⟨-, -, rfl⟩ | ⟨-, op, -, hexec⟩ := step_cases h
  · rfl
  · rfl
  · exact (exec_keys hexec).trans rfl

theorem present_keys (p : Params) (s : State) : (State.present p s).keys = s.keys := by
  unfold State.present
  split <;> rfl

theorem present_dirty (p : Params) (s : State) : (State.present p s).dirty = false := by
  unfold State.present
  split
  · rfl
  · next h => exact Bool.eq_false_of_not_eq_true h

/-- Settles O49: after RefreshKeys the latch is k, which the steps and the Tick keep. -/
theorem outerIterationCompletes : Obligations.OuterIterationCompletes := by
  intro p k s
  have hact : ∀ a ∈ List.replicate p.instructionsPerFrame Action.step ++ [.host .tick],
      ∀ s t : State, s.keys = k → act p a s = .next t → t.keys = k := by
    intro a ha s t hs h
    obtain ⟨-, hstep⟩ | ⟨e, rfl, rfl⟩ := act_cases h
    · exact (step_keys hstep).trans hs
    · obtain rfl : e = .tick := by simpa using ha
      exact hs
  obtain ⟨t, ht, hk⟩ := runActions_keeps hact (State.setKeys_keys s k)
  have hrun : runActions p (.host (.refreshKeys k) ::
      (List.replicate p.instructionsPerFrame .step ++ [.host .tick])) s = .next t :=
    (runActions_cons rfl).trans ht
  refine ⟨State.present p t, ?_, (present_keys p t).trans hk, present_dirty p t⟩
  simp only [outerIteration, hrun]

/-- A host event other than a reset writes the host's fields only. -/
theorem onlyHostFields_hostEvent {p : Params} {e : HostEvent} {s t : State}
    (he : ∀ rom, e ≠ .reset rom) (h : OnlyHostFields s t) : OnlyHostFields s (hostEvent p e t) := by
  cases e with
  | reset rom => exact absurd rfl (he rom)
  | refreshKeys k => exact congrArg (hostEvent p (.refreshKeys k)) h
  | tick => exact congrArg (hostEvent p .tick) h
  | clearDirty => exact congrArg (hostEvent p .clearDirty) h
  | setRunState r => exact congrArg (hostEvent p (.setRunState r)) h

/-- Settles O55: FAULT is no field of the host's, so it stays and no step is enabled. -/
theorem faultIsStickyUntilReset : Obligations.FaultIsStickyUntilReset := by
  intro p as s t hfault hreset hrun
  have hact : ∀ a ∈ as, ∀ u v : State, OnlyHostFields s u → act p a u = .next v →
      OnlyHostFields s v := by
    intro a ha u v hu h
    obtain ⟨-, hstep⟩ | ⟨e, rfl, rfl⟩ := act_cases h
    · have hfault_u : u.fault ≠ .none := by
        rw [hu]
        exact hfault
      rw [step_of_not_enabled (.inr hfault_u)] at hstep
      cases hstep
      exact hu
    · refine onlyHostFields_hostEvent ?_ hu
      rintro rom rfl
      exact hreset rom ha
  obtain ⟨v, hv, honly⟩ := runActions_keeps hact (s := s) rfl
  rw [hrun] at hv
  cases hv
  exact honly

/-! ### Reset -/

theorem hostEvent_reset (p : Params) (rom : List Byte) (s : State) :
    hostEvent p (.reset rom) s = State.load p s rom := rfl

/-- Every field but memory, FAULT, RUN_STATE and the draw counter is at its reset value (R262). -/
theorem load_eq_reset (p : Params) (s : State) (rom : List Byte) :
    State.load p s rom = { State.reset with
      mem := (State.load p s rom).mem, fault := (State.load p s rom).fault,
      runState := (State.load p s rom).runState, draws := s.draws } := by
  by_cases hok : romLenOk rom = true
  · rw [load_of_romLenOk hok]
  · rw [load_of_not_romLenOk hok]

theorem unlisted_of_font_end_le {a : Nat} (h : 80 ≤ a) : Memory.unlisted a = 0 :=
  List.getD_eq_default _ _ h

/-- The ROM is copied above the font, so a reset leaves the bytes below 0x200 as FONT and zeros. -/
theorem load_read_below (p : Params) (s : State) (rom : List Byte) {a : Nat} (h : a < 0x200) :
    (State.load p s rom).mem.read a = (fontMem p.font).read a := by
  by_cases hok : romLenOk rom = true
  · rw [load_of_romLenOk hok]
    exact Memory.read_writeAll_outside (.inl h)
  · rw [load_of_not_romLenOk hok]

theorem load_read_rom {rom : List Byte} (hok : romLenOk rom = true) (p : Params) (s : State) {k : Nat}
    (hk : k < rom.length) : some ((State.load p s rom).mem.read (0x200 + k)) = rom[k]? := by
  rw [load_of_romLenOk hok, List.getElem?_eq_getElem hk]
  exact congrArg some (Memory.read_writeAll_inside (fontMem_wf p.font) (rom_end_le hok) hk)

theorem load_read_above {rom : List Byte} (hok : romLenOk rom = true) (p : Params) (s : State) {a : Nat}
    (ha : 0x200 + rom.length ≤ a) : (State.load p s rom).mem.read a = 0 := by
  rw [load_of_romLenOk hok]
  exact (Memory.read_writeAll_outside (.inr ha)).trans (fontMem_above p.font (by omega))

/-- Settles O45: the accepted and the rejected length, each read off the state after it. -/
theorem resetLoadsOrRejects : Obligations.ResetLoadsOrRejects := by
  intro p rom s t ht
  rw [hostEvent_reset] at ht
  subst ht
  refine ⟨load_eq_reset p s rom, load_mem_wf p s rom, fun a ha => ?_, fun a h80 ha => ?_,
    fun h1 h2 => ?_, fun h => ?_⟩
  · exact (congrArg some (load_read_below p s rom (by omega))).trans (fontMem_font p.font ha)
  · exact (load_read_below p s rom ha).trans (fontMem_above p.font h80)
  · have hok : romLenOk rom = true := (romLenOk_iff rom).2 ⟨h1, h2⟩
    refine ⟨?_, ?_, fun k hk => load_read_rom hok p s hk, fun a ha _ => load_read_above hok p s ha⟩
    · exact congrArg State.fault (load_of_romLenOk hok p s)
    · exact congrArg State.runState (load_of_romLenOk hok p s)
  · have hok : ¬ romLenOk rom = true := by
      rw [romLenOk_iff]
      omega
    refine ⟨?_, ?_, fun a ha _ => ?_⟩
    · exact congrArg State.fault (load_of_not_romLenOk hok p s)
    · exact congrArg State.runState (load_of_not_romLenOk hok p s)
    · exact (congrArg (fun u : State => u.mem.read a) (load_of_not_romLenOk hok p s)).trans
        (fontMem_above p.font (by omega))

/-- Settles O46: the four lengths at the two boundaries of the accepted range. -/
theorem romLengthBoundary : Obligations.RomLengthBoundary := by
  intro p rom s t ht
  obtain ⟨-, -, -, -, hgood, hbad⟩ := resetLoadsOrRejects p rom s t ht
  refine ⟨fun h => ?_, fun h => ?_, fun h => ?_, fun h => ?_⟩
  · obtain ⟨hfault, -, hrom, -⟩ := hgood (by omega) (by omega)
    refine ⟨hfault, fun a hlo hhi => ?_⟩
    have hk := hrom (a - 0x200) (by omega)
    rwa [Nat.add_sub_cancel' hlo] at hk
  · exact (hbad (.inr (by omega))).1
  · exact (hgood (by omega) (by omega)).1
  · exact (hbad (.inl h)).1

/-- Memory after a reset with the default FONT is FONT and zeros, none of it listed. -/
theorem reset_mem_eq : State.reset.mem = fontMem defaultFont := fontMem_default.symm

/-- Settles O47: each field of the state called reset, memory by way of the default FONT. -/
theorem resetValues : Obligations.ResetValues := by
  refine ⟨State.readV_reset, rfl, rfl, by decide, rfl, rfl, rfl, rfl, fun y x => pixel_blankFb y x, rfl,
    by decide, rfl, rfl, rfl, rfl, fun a ha => ?_, fun a ha => ?_⟩
  · rw [reset_mem_eq]
    exact fontMem_font defaultFont ha
  · exact unlisted_of_font_end_le ha

/-- Zeros copied over the zeros above the default FONT change no byte, and so list none. -/
theorem writeAll_zeros {n : Nat} (h : Config.programBase + n ≤ 4096) :
    Memory.writeAll [] Config.programBase (List.replicate n 0) = [] := by
  have hlen : (List.replicate n (0 : Byte)).length = n := List.length_replicate
  refine Memory.ext_wf (Memory.wf_writeAll Memory.wf_nil (by rwa [hlen])) Memory.wf_nil fun a => ?_
  by_cases ha : a < Config.programBase ∨ Config.programBase + n ≤ a
  · exact Memory.read_writeAll_outside (by rwa [hlen])
  · obtain ⟨k, rfl⟩ : ∃ k, a = Config.programBase + k := ⟨a - Config.programBase, by omega⟩
    have hk : k < (List.replicate n (0 : Byte)).length := by omega
    rw [Memory.read_writeAll_inside Memory.wf_nil (by rwa [hlen]) hk, List.getElem_replicate,
      Memory.read_nil, unlisted_of_font_end_le (show 80 ≤ 0x200 + k by omega)]

/-- Settles O48: such a reset lists no byte of memory. -/
theorem resetStateIsAZeroRom : Obligations.ResetStateIsAZeroRom := by
  intro p n s hfont h1 h2
  have hok : romLenOk (List.replicate n (0 : Byte)) = true := by
    rw [romLenOk_iff, List.length_replicate]
    exact ⟨h1, h2⟩
  have hmem : (fontMem p.font).writeAll Config.programBase (List.replicate n 0) = [] := by
    rw [hfont, fontMem_default, writeAll_zeros (show 0x200 + n ≤ 4096 by omega)]
  refine (load_of_romLenOk hok p s).trans ?_
  rw [hmem]
  rfl

end Sys2Proof
end

section
/-! Control flow with the stack (spec/40_control_flow.md R121, R123, R124, R130): the jump by V0, the call,
the return, and the stack law of call and return pairs. -/

namespace Sys2Proof

open Sys2Proof.Machine Sys2Proof.Safety

/-- Settles O11: a byte and 12 bits fit the 16 bits of PC, so the sum does not wrap. -/
theorem jumpOffsetAddsV0 : Obligations.JumpOffsetAddsV0 := by
  intro nnn s
  refine ⟨_, exec_jpV0 nnn s, ?_, onlyPc_setPc s _⟩
  have hbyte := (s.readV 0).isLt
  have hnnn := nnn.isLt
  rw [State.setPc_pc, BitVec.toNat_add, zextByte_toNat, zextNNN_toNat]
  omega

/-! ### The call and the return -/

/-- Settles O14: the push writes the slot at SP and no other; a full stack is a listed cause. -/
theorem callPushesOrOverflows : Obligations.CallPushesOrOverflows := by
  intro nnn s
  refine ⟨fun h => ⟨_, exec_call_of_lt nnn h, ?_, fun k hk => ?_, rfl, zextNNN_toNat nnn, rfl⟩,
    fun h => exec_of_faultOf (if_pos h)⟩
  · exact Vector.getElem?_set_self h
  · exact Vector.getElem?_set_ne h hk.symm

/-- Settles O15: the pop reads the slot below SP; an empty stack is a listed cause. -/
theorem returnPopsOrUnderflows : Obligations.ReturnPopsOrUnderflows := fun _ =>
  ⟨fun h => ⟨_, exec_ret_of_pos h, Vector.getElem?_eq_getElem (sp_pred_lt h), rfl, rfl⟩,
    fun h => exec_of_faultOf (if_pos h)⟩

/-! ### The stack law (R130) -/

/-- Nothing but PC, SP and the stack differs. -/
def OnlyControl (s t : State) : Prop := t = { s with pc := t.pc, sp := t.sp, stack := t.stack }

theorem OnlyControl.trans {s t u : State} (h : OnlyControl s t) (h' : OnlyControl t u) :
    OnlyControl s u :=
  Eq.trans h' (congrArg (fun w : State => { w with pc := u.pc, sp := u.sp, stack := u.stack }) h)

theorem OnlyControl.enabled_eq {s t : State} (h : OnlyControl s t) : t.enabled = s.enabled :=
  (congrArg State.enabled h :)

/-- What n call and return pairs, one after the other, leave: PC two further for each pair, SP and the
slots below it as before. -/
structure PairsDone (n : Nat) (s t : State) : Prop where
  pc : t.pc.toNat = (s.pc.toNat + 2 * n) % 65536
  sp : t.sp = s.sp
  lower : ∀ k, k < s.sp.val → t.stack[k]? = s.stack[k]?
  only : OnlyControl s t

theorem PairsDone.refl (s : State) : PairsDone 0 s s :=
  ⟨(Nat.mod_eq_of_lt s.pc.isLt).symm, rfl, fun _ _ => rfl, rfl⟩

theorem PairsDone.trans {m n : Nat} {s t u : State} (h : PairsDone m s t) (h' : PairsDone n t u) :
    PairsDone (m + n) s u where
  pc := by
    have hst := h.pc
    have htu := h'.pc
    omega
  sp := h'.sp.trans h.sp
  lower k hk := (h'.lower k (h.sp ▸ hk)).trans (h.lower k hk)
  only := h.only.trans h'.only

/-- A fetched call: PC + 2 in the slot at SP, SP one up. -/
theorem call_done {nnn : Addr12} {s t : State} (hsp : s.sp.val < 12)
    (h : exec (.call nnn) s.fetchAhead = .next t) : OnlyControl s t ∧ t.sp.val = s.sp.val + 1 ∧
      t.stack[s.sp.val]? = some (s.pc + 2) ∧ ∀ k, k ≠ s.sp.val → t.stack[k]? = s.stack[k]? := by
  obtain ⟨u, hu, hslot, hother, husp, -, hframe⟩ := (callPushesOrOverflows nnn s.fetchAhead).1 hsp
  obtain rfl : t = u := Host.Outcome.next.inj (h.symm.trans hu)
  exact ⟨hframe, husp, hslot, hother⟩

/-- A fetched return: PC from the slot below SP, SP one down, the stack as it was. -/
theorem ret_done {s t : State} (hsp : 0 < s.sp.val) (h : exec .ret s.fetchAhead = .next t) :
    OnlyControl s t ∧ t.sp.val = s.sp.val - 1 ∧ s.stack[s.sp.val - 1]? = some t.pc ∧
      t.stack = s.stack := by
  obtain ⟨u, hu, hpop, husp, hframe⟩ := (returnPopsOrUnderflows s.fetchAhead).1 hsp
  obtain rfl : t = u := Host.Outcome.next.inj (h.symm.trans hu)
  have hstack : t.stack = s.stack := (congrArg State.stack hframe :)
  refine ⟨?_, husp, hpop, hstack⟩
  unfold OnlyControl
  rw [hstack]
  exact hframe

/-- A call, some pairs, and the return: the body leaves the slot that the call wrote, so the return comes
back to the word after the call. -/
theorem pairsDone_of_call_ret {m : Nat} {nnn : Addr12} {s u v w : State} (hsp : s.sp.val < 12)
    (hcall : exec (.call nnn) s.fetchAhead = .next u) (hbody : PairsDone m u v)
    (hret : exec .ret v.fetchAhead = .next w) : PairsDone 1 s w := by
  obtain ⟨honly_u, hsp_u, hslot, hother⟩ := call_done hsp hcall
  have hsp_v : v.sp.val = s.sp.val + 1 := (congrArg Fin.val hbody.sp).trans hsp_u
  obtain ⟨honly_w, hsp_w, hpop, hstack_w⟩ := ret_done (by omega) hret
  have hpc : w.pc = s.pc + 2 := by
    have hkept : v.stack[s.sp.val]? = some (s.pc + 2) := (hbody.lower _ (by omega)).trans hslot
    rw [hsp_v, Nat.add_sub_cancel, hkept] at hpop
    exact (Option.some.inj hpop).symm
  refine ⟨?_, Fin.ext (by omega), fun k hk => ?_, (honly_u.trans hbody.only).trans honly_w⟩
  · rw [hpc, BitVec.toNat_add]
    rfl
  · rw [hstack_w, hbody.lower k (by omega)]
    exact hother k (Nat.ne_of_lt hk)

/-- The stack law, by induction on how the sequence is built from pairs. -/
theorem run_of_balanced {d n : Nat} {is : List Instr} (hb : Balanced d n is) {s : State}
    (hsp : s.sp.val + d ≤ 12) (hen : s.enabled = true) (hf : fetchesInOrder is s = true) :
    ∃ t, Host.Core.run core is.length s = .next t ∧ PairsDone n s t := by
  induction hb generalizing s with
  | done d => exact ⟨s, rfl, PairsDone.refl s⟩
  | pair d m n nnn body rest _ _ ihbody ihrest =>
    obtain ⟨hfetch_call, u, hu, hf_u⟩ := fetchesInOrder_cons.1 hf
    have hcall := (step_fetched hen hfetch_call).symm.trans hu
    obtain ⟨honly_u, hsp_u, -, -⟩ := call_done (by omega) hcall
    obtain ⟨hf_body, v, hv, hf_v⟩ := fetchesInOrder_append.1 hf_u
    obtain ⟨v', hv', hbody⟩ := ihbody (by omega) (honly_u.enabled_eq.trans hen) hf_body
    obtain rfl : v = v' := Host.Outcome.next.inj (hv.symm.trans hv')
    obtain ⟨hfetch_ret, w, hw, hf_w⟩ := fetchesInOrder_cons.1 hf_v
    have hen_v : v.enabled = true := (honly_u.trans hbody.only).enabled_eq.trans hen
    have hret := (step_fetched hen_v hfetch_ret).symm.trans hw
    have hpair := pairsDone_of_call_ret (by omega) hcall hbody hret
    obtain ⟨t, ht, hrest⟩ := ihrest (hpair.sp ▸ hsp) (hpair.only.enabled_eq.trans hen) hf_w
    refine ⟨t, ?_, Nat.add_comm n 1 ▸ hpair.trans hrest⟩
    rw [List.length_cons, List.length_append, List.length_cons, run_succ hu, run_add hv, run_succ hw, ht]

/-- Settles O16: the stack law, with SP as before among the fields that stay. -/
theorem callReturnPairsRestorePc : Obligations.CallReturnPairsRestorePc := by
  intro d n is s hb hsp hrun hfault hf
  obtain ⟨t, ht, hdone⟩ := run_of_balanced hb hsp ((State.enabled_iff s).2 ⟨hrun, hfault⟩) hf
  refine ⟨t, ht, hdone.pc, hdone.sp, hdone.lower, ?_⟩
  have honly : t = { s with pc := t.pc, sp := t.sp, stack := t.stack } := hdone.only
  rw [hdone.sp] at honly
  exact honly

end Sys2Proof
end

section
/-! The flag writers (spec/41_arith_logic.md R147 to R151), the random byte (R152) and index arithmetic
(spec/42_index_memory.md R162, R163). The five flag writers are one law: the flag is written first, so an
operand that is VF is the new flag. -/

namespace Sys2Proof

open Sys2Proof.Machine Sys2Proof.Safety

/-! ### The law of the flag writers (R24, D7) -/

theorem onlyVAndF_setV_setV (s : State) (x : Reg) (c b : Byte) :
    OnlyVAndF x s ((s.setV regF c).setV x b) :=
  ⟨rfl, fun _ hx hF => (State.readV_setV_ne _ b hx).trans (State.readV_setV_ne s c hF)⟩

/-- An instruction that writes the flag and then V[X] from the registers as they are by then. -/
theorem exec_flagWriter_of_eq {i : Instr} {x y : Reg} {s : State} {flag : Byte} {op : Byte → Byte → Byte}
    (h : exec i s = .next ((s.setV regF flag).setV x
      (op ((s.setV regF flag).readV x) ((s.setV regF flag).readV y)))) :
    ∃ t, exec i s = .next t ∧ OnlyVAndF x s t ∧ (x ≠ regF → t.readV regF = flag) ∧
      t.readV x = op (if x = regF then flag else s.readV x) (if y = regF then flag else s.readV y) := by
  refine ⟨_, h, onlyVAndF_setV_setV s x _ _, fun hx => ?_, ?_⟩
  · rw [State.readV_setV_ne _ _ hx.symm, State.readV_setV_self]
  · rw [State.readV_setV_self, State.readV_setV, State.readV_setV]

theorem exec_addReg (x y : Reg) (s : State) : exec (.addReg x y) s =
    .next ((s.setV regF (carryFlag (s.readV x) (s.readV y))).setV x
      ((s.setV regF (carryFlag (s.readV x) (s.readV y))).readV x +
        (s.setV regF (carryFlag (s.readV x) (s.readV y))).readV y)) := rfl

theorem exec_subReg (x y : Reg) (s : State) : exec (.subReg x y) s =
    .next ((s.setV regF (noBorrowFlag (s.readV x) (s.readV y))).setV x
      ((s.setV regF (noBorrowFlag (s.readV x) (s.readV y))).readV x -
        (s.setV regF (noBorrowFlag (s.readV x) (s.readV y))).readV y)) := rfl

theorem exec_subnReg (x y : Reg) (s : State) : exec (.subnReg x y) s =
    .next ((s.setV regF (noBorrowFlag (s.readV y) (s.readV x))).setV x
      ((s.setV regF (noBorrowFlag (s.readV y) (s.readV x))).readV y -
        (s.setV regF (noBorrowFlag (s.readV y) (s.readV x))).readV x)) := rfl

theorem exec_shr (x y : Reg) (s : State) : exec (.shr x y) s =
    .next ((s.setV regF (shiftRightFlag (s.readV x))).setV x
      ((s.setV regF (shiftRightFlag (s.readV x))).readV x >>> 1)) := rfl

theorem exec_shl (x y : Reg) (s : State) : exec (.shl x y) s =
    .next ((s.setV regF (shiftLeftFlag (s.readV x))).setV x
      ((s.setV regF (shiftLeftFlag (s.readV x))).readV x <<< 1)) := rfl

/-! ### The flags and the results as numbers -/

theorem carryFlag_toNat (a b : Byte) :
    (carryFlag a b).toNat = if a.toNat + b.toNat > 255 then 1 else 0 := by
  simp only [carryFlag, flagByte_toNat, decide_eq_true_eq]

theorem noBorrowFlag_toNat (a b : Byte) :
    (noBorrowFlag a b).toNat = if b.toNat ≤ a.toNat then 1 else 0 := by
  simp only [noBorrowFlag, flagByte_toNat, decide_eq_true_eq]

theorem byte_sub_toNat (a b : Byte) : (a - b).toNat = (256 + a.toNat - b.toNat) % 256 := by
  have hb := b.isLt
  have hsub : (a - b).toNat = (256 - b.toNat + a.toNat) % 256 := BitVec.toNat_sub a b
  omega

theorem shiftRightFlag_toNat (a : Byte) : (shiftRightFlag a).toNat = a.toNat % 2 :=
  (BitVec.toNat_and a 1).trans (Nat.and_one_is_mod a.toNat)

theorem shiftLeftFlag_toNat (a : Byte) : (shiftLeftFlag a).toNat = a.toNat / 128 :=
  (BitVec.toNat_ushiftRight a 7).trans (Nat.shiftRight_eq_div_pow a.toNat 7)

theorem shiftRight_one_toNat (a : Byte) : (a >>> 1).toNat = a.toNat / 2 :=
  (BitVec.toNat_ushiftRight a 1).trans (Nat.shiftRight_eq_div_pow a.toNat 1)

theorem shiftLeft_one_toNat (a : Byte) : (a <<< 1).toNat = 2 * a.toNat % 256 := by
  rw [BitVec.toNat_shiftLeft, Nat.shiftLeft_eq, Nat.mul_comm]

/-! ### The tables of outcomes -/

/-- The law of the flag writers as a table, for a result g and a flag c of the operands as numbers: an
operand that is VF was f for the flag and is the flag for the result. -/
theorem exec_flagWriter_table {i : Instr} {x y : Reg} {s : State} {flag : Byte}
    {op : Byte → Byte → Byte} (g c : Nat → Nat → Nat)
    (h : exec i s = .next ((s.setV regF flag).setV x
      (op ((s.setV regF flag).readV x) ((s.setV regF flag).readV y))))
    (hop : ∀ a b, (op a b).toNat = g a.toNat b.toNat)
    (hflag : flag.toNat = c (s.readV x).toNat (s.readV y).toNat) {a b f : Nat}
    (ha : a = (s.readV x).toNat) (hb : b = (s.readV y).toNat) (hf : f = (s.readV regF).toNat) :
    ∃ t, exec i s = .next t ∧ OnlyVAndF x s t ∧
      (x ≠ regF → y ≠ regF → (t.readV x).toNat = g a b ∧ (t.readV regF).toNat = c a b) ∧
      (x ≠ regF → y = regF → (t.readV x).toNat = g a (c a f) ∧ (t.readV regF).toNat = c a f) ∧
      (x = regF → y ≠ regF → (t.readV regF).toNat = g (c f b) b) ∧
      (x = regF → y = regF → (t.readV regF).toNat = g (c f f) (c f f)) := by
  subst ha hb hf
  obtain ⟨t, ht, honly, htF, htx⟩ := exec_flagWriter_of_eq h
  refine ⟨t, ht, honly, fun hx hy => ?_, ?_, ?_, ?_⟩
  · rw [if_neg hx, if_neg hy] at htx
    rw [htx, htF hx, hop, hflag]
    exact ⟨rfl, rfl⟩
  · rintro hx rfl
    rw [if_neg hx, if_pos rfl] at htx
    rw [htx, htF hx, hop, hflag]
    exact ⟨rfl, rfl⟩
  · rintro rfl hy
    rw [if_pos rfl, if_neg hy] at htx
    rw [htx, hop, hflag]
  · rintro rfl rfl
    rw [if_pos rfl] at htx
    rw [htx, hop, hflag]

/-- Settles O19: the table at the sum and the carry; with both operands VF the flag is added to itself. -/
theorem addWithCarryOutcomes : Obligations.AddWithCarryOutcomes := by
  intro x y s a b f ha hb hf
  obtain ⟨t, ht, honly, hneither, hy, hx, hboth⟩ := exec_flagWriter_table
    (fun a b => (a + b) % 256) (fun a b => if a + b > 255 then 1 else 0)
    (exec_addReg x y s) BitVec.toNat_add (carryFlag_toNat _ _) ha hb hf
  refine ⟨t, ht, honly, hneither, hy, hx, fun hxF hyF => (hboth hxF hyF).trans ?_⟩
  split_ifs <;> omega

/-- Settles O20: the table at the difference and the missing borrow; with both operands VF the flag is
taken from itself. -/
theorem subtractOutcomes : Obligations.SubtractOutcomes := by
  intro x y s a b f ha hb hf
  obtain ⟨t, ht, honly, hneither, hy, hx, hboth⟩ := exec_flagWriter_table
    (fun a b => (256 + a - b) % 256) (fun a b => if b ≤ a then 1 else 0)
    (exec_subReg x y s) byte_sub_toNat (noBorrowFlag_toNat _ _) ha hb hf
  refine ⟨t, ht, honly, hneither, hy, hx, fun hxF hyF => (hboth hxF hyF).trans ?_⟩
  rw [Nat.add_sub_cancel]

/-- Settles O21: the same table with the operands of the difference exchanged. -/
theorem reverseSubtractOutcomes : Obligations.ReverseSubtractOutcomes := by
  intro x y s a b f ha hb hf
  obtain ⟨t, ht, honly, hneither, hy, hx, hboth⟩ := exec_flagWriter_table
    (fun a b => (256 + b - a) % 256) (fun a b => if a ≤ b then 1 else 0)
    (op := fun a b => b - a) (exec_subnReg x y s) (fun a b => byte_sub_toNat b a) (noBorrowFlag_toNat _ _)
    ha hb hf
  refine ⟨t, ht, honly, hneither, hy, hx, fun hxF hyF => (hboth hxF hyF).trans ?_⟩
  rw [Nat.add_sub_cancel]

/-- Settles O22: the law of the flag writers at the shifts, which read one register. -/
theorem shiftOutcomes : Obligations.ShiftOutcomes := by
  rintro x y s _ rfl
  constructor
  · obtain ⟨t, ht, honly, hflag, hval⟩ :=
      exec_flagWriter_of_eq (y := x) (op := fun a _ => a >>> 1) (exec_shr x y s)
    refine ⟨t, ht, honly, fun hx => ?_, ?_⟩
    · rw [if_neg hx] at hval
      rw [hval, hflag hx, shiftRight_one_toNat, shiftRightFlag_toNat]
      exact ⟨rfl, rfl⟩
    · rintro rfl
      rw [if_pos rfl] at hval
      rw [hval, shiftRight_one_toNat, shiftRightFlag_toNat]
      omega
  · obtain ⟨t, ht, honly, hflag, hval⟩ :=
      exec_flagWriter_of_eq (y := x) (op := fun a _ => a <<< 1) (exec_shl x y s)
    refine ⟨t, ht, honly, fun hx => ?_, ?_⟩
    · rw [if_neg hx] at hval
      rw [hval, hflag hx, shiftLeft_one_toNat, shiftLeftFlag_toNat]
      exact ⟨rfl, rfl⟩
    · rintro rfl
      rw [if_pos rfl] at hval
      rw [hval, shiftLeft_one_toNat, shiftLeftFlag_toNat]
      have hlt := (s.readV regF).isLt
      split <;> omega

/-! ### The random byte and the index register -/

/-- Settles O23: the register write at the masked draw, and the next draw counted. -/
theorem randomIsMaskedDraw : Obligations.RandomIsMaskedDraw := fun x nn s =>
  ⟨_, exec_rnd x nn s, State.readV_setV_self s x _, fun _ hr => State.readV_setV_ne s _ hr, rfl⟩

theorem add_zextByte_toNat (w : Word) (b : Byte) :
    (w + zextByte b).toNat = (w.toNat + b.toNat) % 65536 := by
  rw [BitVec.toNat_add, zextByte_toNat]

/-- Five times a byte fits the 16 bits of I. -/
theorem glyphAddr_toNat (b : Byte) : (glyphAddr b).toNat = b.toNat * 5 := by
  have hb := b.isLt
  have hmul : (glyphAddr b).toNat = (zextByte b).toNat * 5 % 65536 := BitVec.toNat_mul _ _
  rw [zextByte_toNat] at hmul
  omega

/-- Settles O25: both are the write to I, at the sum and at the glyph address. -/
theorem indexArithmetic : Obligations.IndexArithmetic := fun x s =>
  ⟨exec_setI_of_eq (exec_addI x s) (add_zextByte_toNat s.i (s.readV x)),
    exec_setI_of_eq (exec_ldF x s) (glyphAddr_toNat (s.readV x))⟩

end Sys2Proof
end

section
/-! Memory through I (spec/42_index_memory.md R164 to R167, spec/20_memory.md R72, R76). -/

namespace Sys2Proof

open Sys2Proof.Machine Sys2Proof.Safety

/-! ### Stores -/

theorem onlyMem_setMem_writeAll (s : State) (a : Nat) (bs : List Byte) :
    OnlyMem a bs.length s (s.setMem (s.mem.writeAll a bs)) :=
  ⟨rfl, fun _ hc => Memory.read_writeAll_outside hc⟩

theorem val_lt_regsUpTo_length {x r : Reg} (s : State) (h : r ≤ x) :
    r.val < (s.regsUpTo x).length := by
  rw [regsUpTo_length]
  exact Nat.lt_succ_of_le h

theorem regsUpTo_getElem {x r : Reg} (s : State) (h : r ≤ x) :
    (s.regsUpTo x)[r.val]'(val_lt_regsUpTo_length s h) = s.readV r := by
  simp [State.regsUpTo, State.readV]

theorem hundreds_toNat (b : Byte) : (b / 100).toNat = b.toNat / 100 := BitVec.toNat_udiv

theorem tens_toNat (b : Byte) : (b / 10 % 10).toNat = b.toNat / 10 % 10 :=
  BitVec.toNat_umod.trans (congrArg (· % 10) BitVec.toNat_udiv)

theorem units_toNat (b : Byte) : (b % 10).toNat = b.toNat % 10 := BitVec.toNat_umod

/-- Settles O26: the three bytes stored are read back, each at its place. -/
theorem decimalDigitsStored : Obligations.DecimalDigitsStored := by
  intro x s hwf hi
  have hread : ∀ k (hk : k < 3), (s.mem.writeAll s.i.toNat (decimalDigits (s.readV x))).read
      (s.i.toNat + k) = (decimalDigits (s.readV x))[k] := fun k hk =>
    Memory.read_writeAll_inside hwf (show s.i.toNat + 3 ≤ 4096 by omega) hk
  refine ⟨_, exec_ldB_of_le x (by omega), ?_, ?_, ?_, onlyMem_setMem_writeAll s _ _⟩
  · exact (congrArg BitVec.toNat (hread 0 (by omega))).trans (hundreds_toNat _)
  · exact (congrArg BitVec.toNat (hread 1 (by omega))).trans (tens_toNat _)
  · exact (congrArg BitVec.toNat (hread 2 (by omega))).trans (units_toNat _)

/-- Settles O27: the registers stored are read back, each at its place. -/
theorem registersStored : Obligations.RegistersStored := by
  intro x s hwf hi
  refine ⟨_, exec_stRegs_of_le hi, fun r hr => ?_, ?_⟩
  · rw [State.setMem_mem, Memory.read_writeAll_inside hwf (by rw [regsUpTo_length]; omega)
      (val_lt_regsUpTo_length s hr), regsUpTo_getElem s hr]
  · rw [← regsUpTo_length s x]
    exact onlyMem_setMem_writeAll s _ _

/-- Settles O31: the store leaves PC, and the fetch reads two registers stored side by side. -/
theorem storeIsSeenByNextFetch : Obligations.StoreIsSeenByNextFetch := by
  intro x r s hwf hi hr hpc
  obtain ⟨t, ht, hread, hframe, -⟩ := registersStored x s hwf hi
  have hpc_t : t.pc.toNat = s.i.toNat + r.val := (congrArg (·.pc.toNat) hframe).trans hpc
  have hnext : (r + 1).val = r.val + 1 := Fin.val_add_one_of_lt (lt_of_lt_of_le hr (Fin.le_last x))
  have hlt : r.val < x.val := hr
  refine ⟨t, ht, ?_⟩
  rw [State.fetch_eq (by omega), hpc_t, hread r hr.le, Nat.add_assoc, ← hnext,
    hread (r + 1) (Fin.le_def.2 (by omega))]

/-! ### Loads -/

/-- A register that FX65 loads. -/
theorem readV_writeRegs_bytesFrom {s : State} {m : Memory} {a n : Nat} {r : Reg} (h : r.val < n) :
    (s.writeRegs 0 (bytesFrom m a n)).readV r = m.read (a + r.val) := by
  rw [State.readV_writeRegs, if_pos (Nat.zero_le _), Nat.sub_zero, bytesFrom_getElem?, if_pos h,
    Option.getD_some]

/-- Settles O28: the registers up to X take the bytes, the others stay. -/
theorem registersLoaded : Obligations.RegistersLoaded := by
  intro x s hi
  refine ⟨_, exec_ldRegs_of_le hi, fun r hr => ?_, fun r hr => ?_, State.writeRegs_eq s 0 _⟩
  · exact readV_writeRegs_bytesFrom (Nat.lt_succ_of_le hr)
  · exact readV_writeRegs_of_gt (by simpa [bytesFrom] using hr)

/-- Settles O30: FX29 sets I to the address of the glyph, and F465 loads the five bytes there. -/
theorem fontRoundTrip : Obligations.FontRoundTrip := by
  intro font x s hglyph hfont
  obtain ⟨t, ht, hi, hframe⟩ := exec_setI_of_eq (exec_ldF x s) (glyphAddr_toNat (s.readV x))
  have hfour : ((4 : Reg).val) = 4 := rfl
  have hmem : t.mem = s.mem := (congrArg State.mem hframe :)
  obtain ⟨u, hu, hload, -⟩ := registersLoaded 4 t (by omega)
  refine ⟨t, u, ht, hu, fun r hr => ?_⟩
  have hr4 : r.val ≤ 4 := hr
  rw [hload r hr, hmem, hi, Nat.mul_comm, hfont _ (by omega)]

/-! ### Ranges that end above 4095 -/

/-- Settles O29: each range is a listed cause. -/
theorem dataRangeFaults : Obligations.DataRangeFaults := fun _ _ _ _ =>
  ⟨fun h => exec_of_faultOf (if_pos h),
    fun h => ⟨exec_of_faultOf (if_pos h), exec_of_faultOf (if_pos h)⟩,
    fun h1 h => exec_of_faultOf (if_pos ⟨h1, h⟩)⟩

end Sys2Proof
end

section
/-! The sprite (spec/43_display.md R182): what the pixel loops leave, read off the closed form of the
sprite. -/

namespace Sys2Proof

open Sys2Proof.Machine Sys2Proof.Safety

/-- Some bit of the sprite that is not clipped falls on a pixel that was lit. -/
def Collides (fb : FrameBuffer) (rows : List Byte) (y0 x0 : Nat) : Prop :=
  ∃ r c, r < 32 ∧ c < 64 ∧ spriteBit rows y0 x0 r c = true ∧ pixel fb r c = true

/-- What a sprite at row y0, column x0 leaves on a framebuffer. -/
structure Drawn (rows : List Byte) (y0 x0 : Nat) (s t : State) : Prop where
  pixels : ∀ r c, r < 32 → c < 64 → pixel t.fb r c = (pixel s.fb r c ^^ spriteBit rows y0 x0 r c)
  flag : (t.readV regF = 1 ∧ Collides s.fb rows y0 x0) ∨ (t.readV regF = 0 ∧ ¬ Collides s.fb rows y0 x0)
  others : ∀ r, r ≠ regF → t.readV r = s.readV r
  dirty : t.dirty = true
  frame : t = { s with v := t.v, fb := t.fb, dirty := t.dirty }

theorem drawnCanvas_pixel (x y : Reg) (rows : List Byte) (s : State) {r c : Nat} (hr : r < 32)
    (hc : c < 64) : pixel (drawnCanvas x y rows s).fb r c =
      (pixel s.fb r c ^^ spriteBit rows ((s.readV y).toNat % 32) ((s.readV x).toNat % 64) r c) :=
  drawRows_pixel ⟨s.fb, false⟩ _ _ rows r c hr hc

theorem drawnCanvas_hit_iff (x y : Reg) (rows : List Byte) (s : State) :
    (drawnCanvas x y rows s).hit = true ↔
      Collides s.fb rows ((s.readV y).toNat % 32) ((s.readV x).toNat % 64) := by
  refine (drawRows_hit ⟨s.fb, false⟩ _ _ rows).trans ?_
  simp only [Bool.false_eq_true, false_or]
  rfl

/-- DXYN in range draws its rows at V[Y], V[X]. -/
theorem exec_drw_drawn (x y : Reg) {n : Nibble} {s : State}
    (h : n.toNat = 0 ∨ s.i.toNat + n.toNat - 1 ≤ 4095) :
    ∃ t, exec (.drw x y n) s = .next t ∧ Drawn (bytesFrom s.mem s.i.toNat n.toNat)
      ((s.readV y).toNat % 32) ((s.readV x).toNat % 64) s t := by
  refine ⟨_, exec_drw_of_le x y (by omega), fun r c hr hc => drawnCanvas_pixel x y _ s hr hc, ?_,
    fun r hr => State.readV_setV_ne _ _ hr, rfl, rfl⟩
  rw [← drawnCanvas_hit_iff, State.readV_setDirty, State.readV_setV_self]
  cases (drawnCanvas x y (bytesFrom s.mem s.i.toNat n.toNat) s).hit with
  | true => exact .inl ⟨rfl, rfl⟩
  | false => exact .inr ⟨rfl, Bool.false_ne_true⟩

theorem Drawn.flag_eq_one_iff {rows : List Byte} {y0 x0 : Nat} {s t : State}
    (h : Drawn rows y0 x0 s t) : t.readV regF = 1 ↔ Collides s.fb rows y0 x0 := by
  obtain ⟨hone, hcol⟩ | ⟨hzero, hcol⟩ := h.flag
  · exact iff_of_true hone hcol
  · refine iff_of_false ?_ hcol
    rw [hzero]
    decide

/-- Settles O33: the flag is 1 on a collision and 0 without one. -/
theorem spriteIsXoredAndClipped : Obligations.SpriteIsXoredAndClipped := by
  rintro x y n s _ _ _ hrange rfl rfl rfl
  obtain ⟨t, ht, hdrawn⟩ := exec_drw_drawn x y hrange
  refine ⟨t, ht, hdrawn.pixels, hdrawn.flag_eq_one_iff.2, fun hdark => ?_, hdrawn.others, hdrawn.dirty,
    hdrawn.frame⟩
  obtain ⟨-, r, c, hr, hc, hbit, hlit⟩ | ⟨hzero, -⟩ := hdrawn.flag
  · exact absurd (hlit.symm.trans (hdark r c hr hc hbit)) (by decide)
  · exact hzero

/-- Drawing twice at one place: each pixel is flipped twice or not at all. -/
theorem Drawn.fb_eq {rows : List Byte} {y0 x0 : Nat} {s t u : State} (h : Drawn rows y0 x0 s t)
    (h' : Drawn rows y0 x0 t u) : u.fb = s.fb := by
  refine pixel_ext fun r c hr hc => ?_
  rw [h'.pixels r c hr hc, h.pixels r c hr hc, Bool.xor_assoc, Bool.xor_self, Bool.xor_false]

/-- A set bit meets a lit pixel the second time where it met a dark one the first time. -/
theorem Drawn.collides_iff {rows : List Byte} {y0 x0 : Nat} {s t : State} (h : Drawn rows y0 x0 s t) :
    Collides t.fb rows y0 x0 ↔ ∃ r c, r < 32 ∧ c < 64 ∧ pixel s.fb r c = false ∧
      spriteBit rows y0 x0 r c = true := by
  unfold Collides
  refine exists_congr fun r => exists_congr fun c => and_congr_right fun hr => and_congr_right fun hc => ?_
  rw [h.pixels r c hr hc, and_comm]
  refine and_congr_left fun hbit => ?_
  rw [hbit, Bool.xor_true, Bool.not_eq_true']

/-- Settles O34: X and Y are not VF, so the second draw has the rows and the place of the first. -/
theorem drawingTwiceRestores : Obligations.DrawingTwiceRestores := by
  rintro x y n s _ hx hy hrange rfl
  obtain ⟨t, ht, hdrawn⟩ := exec_drw_drawn x y hrange
  have hi : t.i = s.i := (congrArg State.i hdrawn.frame :)
  have hmem : t.mem = s.mem := (congrArg State.mem hdrawn.frame :)
  obtain ⟨u, hu, hagain⟩ := exec_drw_drawn x y (s := t) (n := n) (hi ▸ hrange)
  rw [hi, hmem, hdrawn.others x hx, hdrawn.others y hy] at hagain
  exact ⟨t, u, ht, hu, hdrawn.fb_eq hagain, hagain.flag_eq_one_iff.trans hdrawn.collides_iff⟩

end Sys2Proof
end

section
/-! Keys (spec/44_input_timers.md R191 to R194, R198): the skips on a key and the key wait. -/

namespace Sys2Proof

open Sys2Proof.Machine Sys2Proof.Safety

/-! ### The skips -/

theorem keyDown_eq_decide (s : State) (k : Key) :
    s.keyDown k = decide (s.keys[k.val]? = some true) := by
  simp only [State.keyDown_iff, Bool.decide_eq_true]

theorem not_keyDown_eq_decide (s : State) (k : Key) :
    (!s.keyDown k) = decide (s.keys[k.val]? = some false) := by
  simp only [State.keyDown_iff, Bool.decide_eq_false]

/-- Settles O35: both are the law of the skip, at the key pressed and at the key not pressed. -/
theorem skipsOnKey : Obligations.SkipsOnKey := fun _ k s hk =>
  ⟨exec_skip_of_eq _ (keyDown_eq_decide s k ▸ exec_skp_of_keyOf hk),
    exec_skip_of_eq _ (not_keyDown_eq_decide s k ▸ exec_sknp_of_keyOf hk)⟩

/-- Settles O36: a number above 15 is a listed cause of both. -/
theorem keyIndexFaults : Obligations.KeyIndexFaults := fun _ _ h =>
  ⟨exec_of_faultOf (if_pos h), exec_of_faultOf (if_pos h)⟩

/-! ### The key wait -/

theorem stall_pc_toNat (s : State) : s.stall.pc.toNat = (s.pc.toNat + 65534) % 65536 := by
  have hsub : s.stall.pc.toNat = (65536 - 2 + s.pc.toNat) % 65536 := BitVec.toNat_sub s.pc 2
  omega

/-- The smallest key down is the one found: a smaller one would be down, and a larger one would leave it
up. -/
theorem firstPressed_eq_some {s : State} {k : Key} (hk : s.keyDown k = true)
    (hbelow : ∀ j : Key, j < k → s.keyDown j = false) : firstPressed s.keys = some k := by
  cases hfind : firstPressed s.keys with
  | none => exact Bool.noConfusion ((firstPressed_none.1 hfind k).symm.trans hk)
  | some j =>
    obtain ⟨hj, hbelow_j⟩ := firstPressed_some hfind
    obtain hlt | rfl | hlt := lt_trichotomy j k
    · exact Bool.noConfusion ((hbelow j hlt).symm.trans hj)
    · rfl
    · exact Bool.noConfusion ((hbelow_j k hlt).symm.trans hk)

theorem firstPressed_eq_none {s : State} (hup : ∀ k : Key, s.keys[k.val]? = some false) :
    firstPressed s.keys = none :=
  firstPressed_none.2 fun k => (State.keyDown_iff s k false).1 (hup k)

/-- Settles O37: the key captured is the smallest one down, and the stall undoes the fetch-ahead. -/
theorem keyWaitCapturesAndStalls : Obligations.KeyWaitCapturesAndStalls := by
  intro x s hc
  have hexec := exec_ldVxK_of_none x hc
  rw [State.captureKey_eq] at hexec
  refine ⟨_, hexec, fun k hk hbelow => ?_, fun hup => ?_, rfl, stall_pc_toNat _, rfl⟩
  · have hfirst : firstPressed s.keys = some k := firstPressed_eq_some
      ((State.keyDown_iff s k true).1 hk) fun j hj => (State.keyDown_iff s j false).1 (hbelow j hj)
    rw [hfirst]
    rfl
  · rw [firstPressed_eq_none hup, hc]
    rfl

/-- Settles O38: the stall while the key is down, the completion when it is up. -/
theorem keyWaitCompletesOnRelease : Obligations.KeyWaitCompletesOnRelease := by
  intro x k s hc
  constructor
  · intro hk
    have hdown := (State.keyDown_iff s k true).1 hk
    exact ⟨_, exec_ldVxK_of_down x hc hdown, rfl, stall_pc_toNat s, rfl⟩
  · intro hk
    have hup := (State.keyDown_iff s k false).1 hk
    refine ⟨_, exec_ldVxK_of_up x hc hup, ?_, fun r hr => State.readV_setV_ne s _ hr, rfl, rfl, rfl⟩
    exact (congrArg BitVec.toNat (State.readV_setV_self s x _)).trans (byteOfKey_toNat k)

theorem captureKey_of_no_key {s : State} (hup : ∀ k : Key, s.keys[k.val]? = some false) :
    s.captureKey = s := by
  rw [State.captureKey_eq, firstPressed_eq_none hup, Option.none_or]

/-- A stall undoes the fetch-ahead and leaves AWAITING_KEY set. -/
theorem stall_fetchAhead (s : State) : s.fetchAhead.stall = { s with awaitingKey := true } := by
  have hpc : s.fetchAhead.pc - 2 = s.pc := BitVec.add_sub_cancel s.pc 2
  rw [State.stall_eq, hpc]
  rfl

theorem step_ldVxK_no_key {x : Reg} {s : State} (hen : s.enabled = true)
    (hf : s.fetch = some (encode (.ldVxK x))) (hc : s.capturedKey = none)
    (hup : ∀ k : Key, s.keys[k.val]? = some false) :
    step s = .next { s with awaitingKey := true } := by
  rw [step_of_fetch_some hen hf, decodeWord_encode rfl, exec_ldVxK_of_none x (s := s.fetchAhead) hc,
    captureKey_of_no_key (s := s.fetchAhead) hup, stall_fetchAhead]

/-- Settles O39: each step is the stall without a key, and the state after it is at the same FX0A again. -/
theorem keyWaitRetriesWithoutKey : Obligations.KeyWaitRetriesWithoutKey := by
  intro n
  induction n with
  | zero =>
    intro x s hrun hfault hf hc hup
    exact run_succ (step_ldVxK_no_key ((State.enabled_iff s).2 ⟨hrun, hfault⟩) hf hc hup)
  | succ n ih =>
    intro x s hrun hfault hf hc hup
    rw [run_succ (step_ldVxK_no_key ((State.enabled_iff s).2 ⟨hrun, hfault⟩) hf hc hup)]
    exact ih x { s with awaitingKey := true } hrun hfault hf hc hup

end Sys2Proof
end
